-- ==== Sys2Proof/Word.lean ====
section
/-! DEFINITION. The words of CORE: a byte of a message, the 64-bit operand and result registers, the 32-bit command
and status words, and the four widths an engine may work at (spec/00_scope.md R9, R12, R13). -/

namespace Sys2Proof

/-- One byte of a message or of DMEM (R20). -/
abbrev Byte := BitVec 8

/-- A 32-bit word of the interface window: CMD, STATUS, CAP (R33). -/
abbrev Word32 := BitVec 32

/-- A 64-bit register: A0, A1, A2, RES (R33), and the home of each W-bit context field (log 25). -/
abbrev Word64 := BitVec 64

/-- The width set, fixed and closed: 8, 16, 32 or 64 bits (R9, 90_conflicts.md C2). -/
inductive Width where
  | w8 | w16 | w32 | w64
  deriving DecidableEq, Repr

/-- The width in bits. -/
def Width.bits : Width → Nat
  | .w8 => 8
  | .w16 => 16
  | .w32 => 32
  | .w64 => 64

end Sys2Proof
end

