-- ==== Sys2Proof/Syntax.lean ====
section
/-! DEFINITION. The seventeen commands of spec/30_encoding.md R119, one constructor per row of the opcode table. -/

namespace Sys2Proof

/-- A command with the fields its row uses (R111, R119): `c` the context number CTX, `wc` the width code WC, `ri` and
`ro` the flags reflectIn and reflectOut, `df` the defaults flag DF, `n` the byte count minus one N. Bounds of the
numeric fields are `Instr.WellFormed`. -/
inductive Instr where
  | nop
  | cfgCrc (c wc : Nat) (ri ro : Bool)
  | cfgCrc32hw (c wc : Nat)
  | cfgFnv (c wc : Nat) (df : Bool)
  | cfgFnvinv (c wc : Nat) (df : Bool)
  | cfgDjb2 (c wc : Nat) (df : Bool)
  | cfgDjb2alt (c wc : Nat) (df : Bool)
  | reset (c : Nat)
  | update (c : Nat)
  | updatei (c n : Nat)
  | final (c : Nat)
  | unstep (c : Nat)
  | loadreg (c : Nat)
  | readreg (c : Nat)
  | query (c : Nat)
  | release (c : Nat)
  | modinv (wc : Nat)
  deriving DecidableEq, Repr

/-- The context number a command names, if it uses CTX: all but NOP and MODINV do (R113, R119). -/
def Instr.ctx? : Instr → Option Nat
  | .nop => none
  | .cfgCrc c _ _ _ => some c
  | .cfgCrc32hw c _ => some c
  | .cfgFnv c _ _ => some c
  | .cfgFnvinv c _ _ => some c
  | .cfgDjb2 c _ _ => some c
  | .cfgDjb2alt c _ _ => some c
  | .reset c => some c
  | .update c => some c
  | .updatei c _ => some c
  | .final c => some c
  | .unstep c => some c
  | .loadreg c => some c
  | .readreg c => some c
  | .query c => some c
  | .release c => some c
  | .modinv _ => none

end Sys2Proof
end

