-- ==== Sys2Proof/WellFormed.lean ====
section
/-! DEFINITION. Which commands have an encoding: each field fits its place in the command word (spec/30_encoding.md
R111). A width code of 4 to 7 is well formed: it decodes and its command raises UNSUPPORTED_WIDTH (R122). -/

namespace Sys2Proof

/-- CTX is an unsigned 8-bit number (R113). -/
def ctxFits (c : Nat) : Bool := c < 256

/-- WC has 3 bits (R114). -/
def wcFits (wc : Nat) : Bool := wc < 8

/-- N has 3 bits (R116). -/
def countFits (n : Nat) : Bool := n < 8

/-- Every field of the command fits its bits. -/
def Instr.wellFormed : Instr → Bool
  | .nop => true
  | .cfgCrc c wc _ _ => ctxFits c && wcFits wc
  | .cfgCrc32hw c wc => ctxFits c && wcFits wc
  | .cfgFnv c wc _ => ctxFits c && wcFits wc
  | .cfgFnvinv c wc _ => ctxFits c && wcFits wc
  | .cfgDjb2 c wc _ => ctxFits c && wcFits wc
  | .cfgDjb2alt c wc _ => ctxFits c && wcFits wc
  | .reset c => ctxFits c
  | .update c => ctxFits c
  | .updatei c n => ctxFits c && countFits n
  | .final c => ctxFits c
  | .unstep c => ctxFits c
  | .loadreg c => ctxFits c
  | .readreg c => ctxFits c
  | .query c => ctxFits c
  | .release c => ctxFits c
  | .modinv wc => wcFits wc

abbrev Instr.WellFormed (i : Instr) : Prop := i.wellFormed = true

end Sys2Proof
end

