-- ==== Sys2Proof/Decode.lean ====
section
/-! DEFINITION. Decoding of command words, total on all 2^32 of them, and the encoder, both from the field table and the
bit patterns of spec/30_encoding.md (R111, R120, R124). -/

namespace Sys2Proof

/-- Why a word is illegal (R121). Both make the command raise ILLEGAL_COMMAND. -/
inductive Reject where
  /-- OPC is not in R119. -/
  | undefinedOpcode
  /-- OPC is listed, but a reserved bit or a field the command does not use is non-zero. -/
  | reservedBits
  deriving DecidableEq, Repr

/-- The rows of the opcode table (R119). -/
inductive Opcode where
  | nop | cfgCrc | cfgCrc32hw | cfgFnv | cfgFnvinv | cfgDjb2 | cfgDjb2alt
  | reset | update | updatei | final | unstep | loadreg | readreg | query | release | modinv
  deriving DecidableEq, Repr

/-- The value of OPC, bits 7:0 (R119). -/
def Opcode.code : Opcode → Nat
  | .nop => 0x00
  | .cfgCrc => 0x01
  | .cfgCrc32hw => 0x02
  | .cfgFnv => 0x03
  | .cfgFnvinv => 0x04
  | .cfgDjb2 => 0x05
  | .cfgDjb2alt => 0x06
  | .reset => 0x08
  | .update => 0x09
  | .updatei => 0x0A
  | .final => 0x0B
  | .unstep => 0x0C
  | .loadreg => 0x0D
  | .readreg => 0x0E
  | .query => 0x0F
  | .release => 0x10
  | .modinv => 0x20

/-- The `match` column of R120. -/
def Opcode.pattern : Opcode → Word32
  | .nop => 0x00000000
  | .cfgCrc => 0x00000001
  | .cfgCrc32hw => 0x00000002
  | .cfgFnv => 0x00000003
  | .cfgFnvinv => 0x00000004
  | .cfgDjb2 => 0x00000005
  | .cfgDjb2alt => 0x00000006
  | .reset => 0x00000008
  | .update => 0x00000009
  | .updatei => 0x0000000A
  | .final => 0x0000000B
  | .unstep => 0x0000000C
  | .loadreg => 0x0000000D
  | .readreg => 0x0000000E
  | .query => 0x0000000F
  | .release => 0x00000010
  | .modinv => 0x00000020

/-- The `mask` column of R120: the fixed bits of the row. -/
def Opcode.mask : Opcode → Word32
  | .nop => 0xFFFFFFFF
  | .cfgCrc => 0xFFE000FF
  | .cfgCrc32hw => 0xFFF800FF
  | .cfgFnv => 0xFFD800FF
  | .cfgFnvinv => 0xFFD800FF
  | .cfgDjb2 => 0xFFD800FF
  | .cfgDjb2alt => 0xFFD800FF
  | .reset => 0xFFFF00FF
  | .update => 0xFFFF00FF
  | .updatei => 0xF8FF00FF
  | .final => 0xFFFF00FF
  | .unstep => 0xFFFF00FF
  | .loadreg => 0xFFFF00FF
  | .readreg => 0xFFFF00FF
  | .query => 0xFFFF00FF
  | .release => 0xFFFF00FF
  | .modinv => 0xFFF8FFFF

/-- The row whose OPC is `n`, if R119 lists one. -/
def opcodeOf (n : Nat) : Option Opcode :=
  match n with
  | 0x00 => some .nop
  | 0x01 => some .cfgCrc
  | 0x02 => some .cfgCrc32hw
  | 0x03 => some .cfgFnv
  | 0x04 => some .cfgFnvinv
  | 0x05 => some .cfgDjb2
  | 0x06 => some .cfgDjb2alt
  | 0x08 => some .reset
  | 0x09 => some .update
  | 0x0A => some .updatei
  | 0x0B => some .final
  | 0x0C => some .unstep
  | 0x0D => some .loadreg
  | 0x0E => some .readreg
  | 0x0F => some .query
  | 0x10 => some .release
  | 0x20 => some .modinv
  | _ => none

/-- `v[lo + len - 1 : lo]`, read as an unsigned number (R12). -/
def field (v : Word32) (lo len : Nat) : Nat := (v.extractLsb' lo len).toNat

/-- OPC, bits 7:0 (R111). -/
def fieldOpc (v : Word32) : Nat := field v 0 8
/-- CTX, bits 15:8 (R111). -/
def fieldCtx (v : Word32) : Nat := field v 8 8
/-- WC, bits 18:16 (R111). -/
def fieldWc (v : Word32) : Nat := field v 16 3
/-- RI, bit 19 (R111). -/
def fieldRi (v : Word32) : Bool := v.getLsbD 19
/-- RO, bit 20 (R111). -/
def fieldRo (v : Word32) : Bool := v.getLsbD 20
/-- DF, bit 21 (R111). -/
def fieldDf (v : Word32) : Bool := v.getLsbD 21
/-- N, bits 26:24 (R111). -/
def fieldN (v : Word32) : Nat := field v 24 3

/-- The command of row `op` with the fields of the word `v` (R124). -/
def assembleFields (op : Opcode) (v : Word32) : Instr :=
  match op with
  | .nop => .nop
  | .cfgCrc => .cfgCrc (fieldCtx v) (fieldWc v) (fieldRi v) (fieldRo v)
  | .cfgCrc32hw => .cfgCrc32hw (fieldCtx v) (fieldWc v)
  | .cfgFnv => .cfgFnv (fieldCtx v) (fieldWc v) (fieldDf v)
  | .cfgFnvinv => .cfgFnvinv (fieldCtx v) (fieldWc v) (fieldDf v)
  | .cfgDjb2 => .cfgDjb2 (fieldCtx v) (fieldWc v) (fieldDf v)
  | .cfgDjb2alt => .cfgDjb2alt (fieldCtx v) (fieldWc v) (fieldDf v)
  | .reset => .reset (fieldCtx v)
  | .update => .update (fieldCtx v)
  | .updatei => .updatei (fieldCtx v) (fieldN v)
  | .final => .final (fieldCtx v)
  | .unstep => .unstep (fieldCtx v)
  | .loadreg => .loadreg (fieldCtx v)
  | .readreg => .readreg (fieldCtx v)
  | .query => .query (fieldCtx v)
  | .release => .release (fieldCtx v)
  | .modinv => .modinv (fieldWc v)

/-- R124: find the row by OPC, check the row's mask and match, take the fields. -/
def decode (v : Word32) : Except Reject Instr :=
  match opcodeOf (fieldOpc v) with
  | none => .error .undefinedOpcode
  | some op => if v &&& op.mask = op.pattern then .ok (assembleFields op v) else .error .reservedBits

/-- The word whose fields are given and whose reserved bits are zero (R111). -/
def packFields (opc ctx wc : Nat) (ri ro df : Bool) (n : Nat) : Word32 :=
  BitVec.ofNat 32 (opc + ctx * 2 ^ 8 + wc * 2 ^ 16 + ri.toNat * 2 ^ 19 + ro.toNat * 2 ^ 20 + df.toNat * 2 ^ 21
    + n * 2 ^ 24)

/-- The row a command belongs to. -/
def Instr.opcode : Instr → Opcode
  | .nop => .nop
  | .cfgCrc _ _ _ _ => .cfgCrc
  | .cfgCrc32hw _ _ => .cfgCrc32hw
  | .cfgFnv _ _ _ => .cfgFnv
  | .cfgFnvinv _ _ _ => .cfgFnvinv
  | .cfgDjb2 _ _ _ => .cfgDjb2
  | .cfgDjb2alt _ _ _ => .cfgDjb2alt
  | .reset _ => .reset
  | .update _ => .update
  | .updatei _ _ => .updatei
  | .final _ => .final
  | .unstep _ => .unstep
  | .loadreg _ => .loadreg
  | .readreg _ => .readreg
  | .query _ => .query
  | .release _ => .release
  | .modinv _ => .modinv

/-- The word of a well-formed command: its OPC, its fields in their places, every other bit zero (R111, R117). -/
def encode (i : Instr) : Word32 :=
  match i with
  | .nop => packFields i.opcode.code 0 0 false false false 0
  | .cfgCrc c wc ri ro => packFields i.opcode.code c wc ri ro false 0
  | .cfgCrc32hw c wc => packFields i.opcode.code c wc false false false 0
  | .cfgFnv c wc df => packFields i.opcode.code c wc false false df 0
  | .cfgFnvinv c wc df => packFields i.opcode.code c wc false false df 0
  | .cfgDjb2 c wc df => packFields i.opcode.code c wc false false df 0
  | .cfgDjb2alt c wc df => packFields i.opcode.code c wc false false df 0
  | .reset c => packFields i.opcode.code c 0 false false false 0
  | .update c => packFields i.opcode.code c 0 false false false 0
  | .updatei c n => packFields i.opcode.code c 0 false false false n
  | .final c => packFields i.opcode.code c 0 false false false 0
  | .unstep c => packFields i.opcode.code c 0 false false false 0
  | .loadreg c => packFields i.opcode.code c 0 false false false 0
  | .readreg c => packFields i.opcode.code c 0 false false false 0
  | .query c => packFields i.opcode.code c 0 false false false 0
  | .release c => packFields i.opcode.code c 0 false false false 0
  | .modinv wc => packFields i.opcode.code 0 wc false false false 0

/-- What the decoder reads from a table row's word of `nbits` bits, the bits above them zero. A command is one 32-bit
word (R110), so the word is the whole instruction. -/
def decodeTableWord (nbits w : Nat) : Option Instr :=
  match decode (BitVec.ofNat 32 (w % 2 ^ nbits)) with
  | .ok i => some i
  | .error _ => none

end Sys2Proof
end

