-- ==== Sys2Proof/Config.lean ====
section
/-! DEFINITION. What an implementation fixes: the parameters of spec/00_scope.md R10, as plain data that State carries
unchanged (log 1), the parameter values the spec's test vectors assume, and the one free value: the contents of a DMEM
byte that nothing has written (93_implementation_defined.md I16). -/

namespace Sys2Proof

/-- A range of DMEM addresses, `base` up to but not including `base + size`. -/
structure Region where
  base : Nat
  size : Nat
  deriving DecidableEq, Repr

/-- HWCRC_POLICY (R10): what CFG_CRC32HW does when the hardware primitive is absent. -/
inductive HwPolicy where
  | fallback | failFast
  deriving DecidableEq, Repr

/-- HWCRC_POLY (R10): the two generator polynomials it may be. -/
inductive HwPoly where
  | p04C11DB7 | p1EDC6F41
  deriving DecidableEq, Repr

/-- The polynomial in normal, MSB-first form (R10). -/
def HwPoly.value : HwPoly → BitVec 32
  | .p04C11DB7 => 0x04C11DB7
  | .p1EDC6F41 => 0x1EDC6F41

/-- The parameters of R10 but for NCTX, which is the number of contexts State holds (log 11).
They are fixed from reset on; DMEM_VALID is the union of `dmemValid` (log 9). -/
structure Params where
  ifbase       : Nat
  aw           : Nat
  dmemValid    : List Region
  hwcrcPresent : Bool
  hwcrcPolicy  : HwPolicy
  hwcrcPoly    : HwPoly
  deriving DecidableEq, Repr

/-- The legal parameter values (R10). -/
abbrev Params.Legal (p : Params) : Prop :=
  p.ifbase % 256 = 0 ∧ 1 ≤ p.aw ∧ p.aw ≤ 64

/-- The legal values of NCTX (R10). -/
abbrev LegalNctx (n : Nat) : Prop := 1 ≤ n ∧ n ≤ 256

namespace Config

/-- What a DMEM byte that nothing has written holds: a FREE VALUE, one for each address, stable until it is written
(R54 "unspecified", R82, 93_implementation_defined.md I16 "any value"; log 7). -/
opaque dmemPowerOn : Nat → Byte

/-- DESIGN CHOICE (log 1, log 2): the parameter values of State.reset, those that the spec's vectors assume
(R11, 95_test_vectors.md), with IFBASE 0. Every statement is about all values, not these. -/
def params : Params where
  ifbase := 0
  aw := 64
  dmemValid := [⟨0x1000, 0x1000⟩]
  hwcrcPresent := true
  hwcrcPolicy := .fallback
  hwcrcPoly := .p04C11DB7

/-- DESIGN CHOICE (log 1): NCTX of State.reset, the 4 contexts that 95_test_vectors.md assumes. -/
def nctx : Nat := 4

end Config

end Sys2Proof
end

