-- ==== Sys2Proof/Machine/State.lean ====
section
/-! DEFINITION. The machine's state, as plain data, and its value after reset (spec/10_state.md, R54). -/

namespace Sys2Proof.Machine

/-- KIND[c] (R41): which unit a context is; `noEngine` is NONE. Code 7 is never held, so it has no constructor. -/
inductive Kind where
  | noEngine | crc | crc32hw | fnv | fnvinv | djb2 | djb2alt
  deriving DecidableEq, Repr

/-- The kinds that have a byte step, the set STREAM of spec/45_context_ops.md R260. -/
inductive StreamKind where
  | crc | crc32hw | fnv | djb2 | djb2alt
  deriving DecidableEq, Repr

/-- One engine context (R40 to R47). A W-bit field is held zero-extended in 64 bits (log 25). -/
structure Context where
  kind   : Kind
  width  : Width
  reg    : Word64
  poly   : Word64
  init   : Word64
  xorout : Word64
  refin  : Bool
  refout : Bool
  prime  : Word64
  pinv   : Word64
  path   : Bool
  deriving DecidableEq, Repr

/-- A context that holds no engine: its value after reset and after RELEASE (R48, R54, R270). -/
def Context.empty : Context where
  kind := .noEngine
  width := .w8
  reg := 0
  poly := 0
  init := 0
  xorout := 0
  refin := false
  refout := false
  prime := 0
  pinv := 0
  path := false

/-- DMEM's written bytes, by address, addresses strictly rising. An address not listed holds no written byte: it
reads as the free value `Config.dmemPowerOn` (log 7). -/
abbrev Memory := List Host.Cell

/-- The size of a host access to the window. R88 admits 32-bit and 64-bit accesses only. -/
inductive AccessSize where
  | b8 | b16 | b32 | b64
  deriving DecidableEq, Repr

/-- What the world outside CORE can do, between commands (R30, R95, R340). Addresses of `read` and `write` are in
the host's address space, that of `dmemWrite` in DMEM. -/
inductive HostEvent where
  /-- A read of the window. -/
  | read (size : AccessSize) (addr : Nat)
  /-- A write of the low bits of `value`, as many as the access has (log 21). -/
  | write (size : AccessSize) (addr : Nat) (value : Word64)
  /-- The host stores one byte of DMEM, by means of its own (R81, R95). -/
  | dmemWrite (addr : Nat) (value : Byte)
  /-- The platform resets CORE (R340). -/
  | reset
  deriving DecidableEq, Repr

/-- The whole machine: CORE's registers and contexts, DMEM, the parameters, and, as the model's own fields (log 3), the
host events that have not yet taken effect and the values the host's reads returned. -/
structure State where
  /-- The parameters, fixed for the life of the block (R10). -/
  params   : Params
  a0       : Word64
  a1       : Word64
  a2       : Word64
  res      : Word64
  status   : Word32
  /-- The contexts 0 to NCTX - 1 (R40). -/
  contexts : List Context
  dmem     : Memory
  /-- The host events still to come, the next one first (R31, R94). -/
  pending  : List HostEvent
  /-- The values the host's reads returned, the newest first, each zero-extended (R55). -/
  readLog  : List Word64
  deriving DecidableEq, Repr

/-- Why the machine stops. Both are outside any command: no command faults, every error of a command is a status code
(R306). -/
inductive Fault where
  /-- Raised by a host access that R88 does not admit: 8-bit, 16-bit, misaligned, or outside the window. The spec has
  no step for it (the host is stuck). Safe: nothing is proved of a host that makes one. -/
  | accessNotAdmitted
  /-- Raised by a host write of a DMEM byte that does not exist (R81). Safe (log 8). -/
  | dmemAbsent
  deriving DecidableEq, Repr

/-- Why an instruction has no meaning. -/
inductive Refusal where
  /-- Raised by an arm of `exec` whose instruction is not modelled yet; no arm is left so. Safe. -/
  | notModelled (mnemonic : String)
  deriving DecidableEq, Repr

/-- NCTX: the number of contexts (R10, R40; log 11). -/
def State.nctx (s : State) : Nat := s.contexts.length

/-- The state after reset of a block with `n` contexts and parameters `p` (R54, R340), the host's events all to come
and DMEM as at power-on. -/
def State.resetFor (n : Nat) (p : Params) : State where
  params := p
  a0 := 0
  a1 := 0
  a2 := 0
  res := 0
  status := 0
  contexts := List.replicate n Context.empty
  dmem := []
  pending := []
  readLog := []

/-- The machine right after reset, with the parameter values of Config.lean (log 1). -/
def State.reset : State := State.resetFor Config.nctx Config.params

end Sys2Proof.Machine
end

