-- ==== Sys2Proof/Machine/Flags.lean ====
section
/-! DEFINITION. The error codes and the two fields of STATUS (spec/10_state.md R38, R50; spec/60_exceptions.md R300 to
R303). CORE has no other flags. -/

namespace Sys2Proof.Machine

/-- The errors a command can raise (R18, R300). -/
inductive CmdError where
  | unsupportedWidth | nonInvertible | unsupportedHardware | illegalCommand
  | badContext | notConfigured | kindMismatch | spanFault
  deriving DecidableEq, Repr

/-- The code written to STATUS.ERR (R300). -/
def CmdError.code : CmdError → BitVec 4
  | .unsupportedWidth => 1
  | .nonInvertible => 2
  | .unsupportedHardware => 3
  | .illegalCommand => 4
  | .badContext => 5
  | .notConfigured => 6
  | .kindMismatch => 7
  | .spanFault => 8

/-- STATUS.ERR, bits 3:0 (R38). -/
def statusErr (st : Word32) : BitVec 4 := st.extractLsb' 0 4

/-- STATUS.ERRSEEN, bit 8 (R38). -/
def statusErrSeen (st : Word32) : Bool := st.getLsbD 8

/-- STATUS with ERR replaced and every other bit kept. -/
def statusWithErr (st : Word32) (code : BitVec 4) : Word32 := (st &&& 0xFFFFFFF0#32) ||| code.setWidth 32

/-- STATUS after a command that completes: ERR 0, ERRSEEN as it was (R302). -/
def statusOk (st : Word32) : Word32 := statusWithErr st 0

/-- STATUS after a command that raises `e`: its code in ERR, ERRSEEN set (R301). -/
def statusFail (st : Word32) (e : CmdError) : Word32 := statusWithErr st e.code ||| 0x00000100#32

end Sys2Proof.Machine
end

