-- ==== Sys2Proof/Machine/Operands.lean ====
section
/-! DEFINITION. Operand forms: the width code, the fit of a 64-bit operand in W bits, values at width W, bit reflection,
and the bytes an operand register carries (spec/00_scope.md R13 to R15; spec/30_encoding.md R114, R118). -/

namespace Sys2Proof.Machine

/-- `width(wc)` (R114): 8 << wc for codes 0 to 3, no width for the rest. -/
def widthOf (wc : Nat) : Option Width :=
  match wc with
  | 0 => some .w8
  | 1 => some .w16
  | 2 => some .w32
  | 3 => some .w64
  | _ => none

/-- The width code of a width, as QUERY reports it (R269). -/
def widthCode : Width → BitVec 2
  | .w8 => 0
  | .w16 => 1
  | .w32 => 2
  | .w64 => 3

/-- `fits(v, W)` (R118): no bit at or above W is set. -/
def fits (v : Word64) (W : Width) : Bool := v >>> W.bits == 0

/-- `reflect_N(v)` (R15): bit N - 1 - i of the result is bit i of `v`. -/
def reflect {N : Nat} (v : BitVec N) : BitVec N := v.reverse

/-- The low W bits of a register that holds a W-bit value. -/
def narrow (W : Width) (v : Word64) : BitVec W.bits := v.setWidth W.bits

/-- `zext_64(v)` (R14). -/
def zext64 {N : Nat} (v : BitVec N) : Word64 := v.setWidth 64

/-- Byte `k` of an operand register, bits 8k + 7 to 8k (R265). -/
def operandByte (v : Word64) (k : Nat) : Byte := v.extractLsb' (8 * k) 8

/-- The first `n` bytes of an operand register, the least significant first (R265). -/
def operandBytes (v : Word64) (n : Nat) : List Byte := (List.range n).map (operandByte v)

end Sys2Proof.Machine
end

