-- ==== Sys2Proof/Machine/Ops.lean ====
section
/-! DEFINITION. The named operations over memory, contexts and registers: DMEM reads and writes, span admission,
raising an error (the one shared exception operation), completing a command, the context checks, and CAP. -/

namespace Sys2Proof.Machine

/-! ### DMEM's written bytes -/

/-- The written byte at `a`, if there is one. -/
def Memory.written (m : Memory) (a : Nat) : Option Byte :=
  match m with
  | [] => none
  | (k, b) :: rest => if a = k then some b else Memory.written rest a

/-- The memory with byte `b` written at `a`, addresses kept strictly rising. -/
def Memory.store (m : Memory) (a : Nat) (b : Byte) : Memory :=
  match m with
  | [] => [(a, b)]
  | (k, v) :: rest =>
    if a < k then (a, b) :: (k, v) :: rest
    else if a = k then (a, b) :: rest
    else (k, v) :: Memory.store rest a b

/-- Every address listed is at least `lo`, and they strictly rise. -/
def Memory.risingFrom (lo : Nat) (m : Memory) : Bool :=
  match m with
  | [] => true
  | (k, _) :: rest => decide (lo ≤ k) && Memory.risingFrom (k + 1) rest

/-- The canonical form: addresses strictly rising. (An unlisted address holds no written byte, so no entry can equal
what an unlisted address holds; log 7.) -/
def Memory.wf (m : Memory) : Bool := Memory.risingFrom 0 m

/-! ### The DMEM address space -/

/-- The address lies in the range. -/
def Region.has (r : Region) (a : Nat) : Bool := decide (r.base ≤ a) && decide (a < r.base + r.size)

/-- `DMEM_VALID(a)`, a predicate on [0, 2^AW) (R10, R81). -/
def dmemValid (p : Params) (a : Nat) : Bool := decide (a < 2 ^ p.aw) && p.dmemValid.any (fun r => Region.has r a)

/-- The parts of the interval [lo, hi) that lie outside a region, the empty ones left out. -/
def Region.cut (r : Region) (lo hi : Nat) : List (Nat × Nat) :=
  (if lo < min hi r.base then [(lo, min hi r.base)] else []) ++
    (if max lo (r.base + r.size) < hi then [(max lo (r.base + r.size), hi)] else [])

/-- What is left of a list of intervals when every region is taken away. -/
def uncovered (rs : List Region) (ivs : List (Nat × Nat)) : List (Nat × Nat) :=
  match rs with
  | [] => ivs
  | r :: rest => uncovered rest (ivs.flatMap (fun iv => Region.cut r iv.1 iv.2))

/-- `span_ok(a, n)` (R85). Whether every byte of the span is valid is decided by taking the regions away from it, so
that a long span is checked without visiting its bytes. -/
def spanOk (p : Params) (a n : Nat) : Bool :=
  n == 0 || (decide (a + n ≤ 2 ^ p.aw) && (uncovered p.dmemValid [(a, a + n)]).isEmpty)

/-- `MemRead(a, 1)` (R17, R82): the host's last write to the byte, or the free value if there is none. -/
def State.readDmem (s : State) (a : Nat) : Byte :=
  match Memory.written s.dmem a with
  | some b => b
  | none => Config.dmemPowerOn a

/-- The bytes of a span, in ascending address order (R84). -/
def State.spanBytes (s : State) (a n : Nat) : List Byte := (List.range n).map (fun i => s.readDmem (a + i))

/-! ### The end of a command -/

/-- `raise e` (R18, R301): the one exception operation. STATUS records the error, every other piece of state is as
before the command. There is no trap, no saved state and no return (R306, R307). -/
def State.raise (s : State) (e : CmdError) : State := { s with status := statusFail s.status e }

/-- `complete` (R18, R302). -/
def State.complete (s : State) : State := { s with status := statusOk s.status }

/-- How every command ends: with the first error its checks met, which leaves no partial effect, or with its effect
(R301, R302). -/
def conclude (s : State) (r : Except CmdError State) : Host.Outcome State Fault Refusal :=
  match r with
  | .error e => .next (s.raise e)
  | .ok t => .next t.complete

/-! ### Contexts -/

/-- The context with number `c`, or BAD_CONTEXT if there is none (R113). -/
def State.indexed (s : State) (c : Nat) : Except CmdError Context :=
  match s.contexts[c]? with
  | none => .error .badContext
  | some x => .ok x

/-- `context(c, allowed)` (R261): BAD_CONTEXT, NOT_CONFIGURED, then KIND_MISMATCH. `allow` says what the command
knows of a kind it applies to. -/
def State.checkContext {α : Type} (s : State) (c : Nat) (allow : Kind → Option α) : Except CmdError (α × Context) :=
  match s.indexed c with
  | .error e => .error e
  | .ok x =>
    if x.kind = .noEngine then .error .notConfigured
    else match allow x.kind with
      | none => .error .kindMismatch
      | some k => .ok (k, x)

/-- The set of all kinds but NONE (R263, R267, R268). -/
def Kind.anyEngine (_ : Kind) : Option Unit := some ()

/-- The set STREAM (R260). -/
def Kind.stream? : Kind → Option StreamKind
  | .noEngine => none
  | .crc => some .crc
  | .crc32hw => some .crc32hw
  | .fnv => some .fnv
  | .fnvinv => none
  | .djb2 => some .djb2
  | .djb2alt => some .djb2alt

/-- The set {FNVINV} (R218). -/
def Kind.inverse? : Kind → Option Unit
  | .noEngine => none
  | .crc => none
  | .crc32hw => none
  | .fnv => none
  | .fnvinv => some ()
  | .djb2 => none
  | .djb2alt => none

/-- The code of a kind (R41). -/
def Kind.code : Kind → BitVec 3
  | .noEngine => 0
  | .crc => 1
  | .crc32hw => 2
  | .fnv => 3
  | .fnvinv => 4
  | .djb2 => 5
  | .djb2alt => 6

/-- The state with context `c` replaced (R40: a command writes that context only). -/
def State.setContext (s : State) (c : Nat) (x : Context) : State := { s with contexts := s.contexts.set c x }

/-- The state with REG[c] written, the rest of context `x` kept (R49). -/
def State.setReg (s : State) (c : Nat) (x : Context) (v : Word64) : State := s.setContext c { x with reg := v }

/-- The state with RES written (R37). -/
def State.setRes (s : State) (v : Word64) : State := { s with res := v }

/-! ### CAP -/

/-- HWCRC_POLYSEL (R36). -/
def HwPoly.select : HwPoly → Bool
  | .p04C11DB7 => false
  | .p1EDC6F41 => true

/-- The HWCRC_POLICY bit (R36). -/
def HwPolicy.bit : HwPolicy → Bool
  | .fallback => false
  | .failFast => true

/-- CAP (R36): reserved, VERSION 1, NCTX - 1, reserved, HWCRC_POLYSEL, HWCRC_POLICY, HWCRC_PRESENT. -/
def State.cap (s : State) : Word32 :=
  0#8 ++ 0x01#8 ++ BitVec.ofNat 8 (s.nctx - 1) ++ 0#5 ++ BitVec.ofBool (HwPoly.select s.params.hwcrcPoly)
    ++ BitVec.ofBool (HwPolicy.bit s.params.hwcrcPolicy) ++ BitVec.ofBool s.params.hwcrcPresent

/-! ### Reset -/

/-- The reset event (R340, R342): every register and context at its reset value, CAP from the same parameters, DMEM
unchanged. The host's own sequence and what it has read are not CORE's, and stay. -/
def State.afterReset (s : State) : State :=
  { State.resetFor s.nctx s.params with dmem := s.dmem, pending := s.pending, readLog := s.readLog }

end Sys2Proof.Machine
end

