-- ==== Sys2Proof/Machine/Crc.lean ====
section
/-! DEFINITION. The generic CRC engine and CFG_CRC (spec/41_crc.md), with the table-driven and reflected forms that the
spec gives as equivalent. -/

namespace Sys2Proof.Machine

/-- One of the 8 rounds of R161: shift left, XOR the polynomial if the high bit was set. -/
def crcRound {N : Nat} (P r : BitVec N) : BitVec N := if r.msb then (r <<< 1) ^^^ P else r <<< 1

/-- `k` rounds. -/
def crcRounds {N : Nat} (P : BitVec N) (k : Nat) (r : BitVec N) : BitVec N :=
  match k with
  | 0 => r
  | k + 1 => crcRounds P k (crcRound P r)

/-- `crc_byte(r, b)` (R161): the byte, reversed if reflectIn, into the top byte of the register, then 8 rounds. -/
def crcByte {N : Nat} (P : BitVec N) (refin : Bool) (r : BitVec N) (b : Byte) : BitVec N :=
  crcRounds P 8 (r ^^^ ((if refin then reflect b else b).setWidth N <<< (N - 8)))

/-- `crc_final(r)` (R163): reverse the register if reflectOut, then XOR with xorOut. -/
def crcFinal {N : Nat} (refout : Bool) (xorout r : BitVec N) : BitVec N :=
  (if refout then reflect r else r) ^^^ xorout

/-- Entry `i` of the lookup table of width N and polynomial P (R165). -/
def crcTable {N : Nat} (P : BitVec N) (i : Byte) : BitVec N := crcRounds P 8 (i.setWidth N <<< (N - 8))

/-- `crc_byte_table(r, b)` (R166). -/
def crcByteTable {N : Nat} (P : BitVec N) (refin : Bool) (r : BitVec N) (b : Byte) : BitVec N :=
  (r <<< 8) ^^^ crcTable P ((r >>> (N - 8)).setWidth 8 ^^^ (if refin then reflect b else b))

/-- One round of the reflected form (R167, R192): shift right, XOR the reflected polynomial if bit 0 was set. -/
def reflectedRound {N : Nat} (P r : BitVec N) : BitVec N := if r.getLsbD 0 then (r >>> 1) ^^^ P else r >>> 1

/-- `k` rounds of the reflected form. -/
def reflectedRounds {N : Nat} (P : BitVec N) (k : Nat) (r : BitVec N) : BitVec N :=
  match k with
  | 0 => r
  | k + 1 => reflectedRounds P k (reflectedRound P r)

/-- `crc_byte_reflected(r~, b)` with the reflected polynomial P~ (R167). -/
def crcByteReflected {N : Nat} (P : BitVec N) (r : BitVec N) (b : Byte) : BitVec N :=
  reflectedRounds P 8 (r ^^^ b.setWidth N)

/-- The context CFG_CRC leaves (R164). -/
def crcContext (W : Width) (ri ro : Bool) (poly init xorout : Word64) : Context :=
  { Context.empty with
    kind := .crc, width := W, poly := poly, init := init, xorout := xorout, refin := ri, refout := ro, reg := init }

/-- CFG_CRC (R164): checks the context, the width code, then the fit of the three operands. -/
def execCfgCrc (c wc : Nat) (ri ro : Bool) (s : State) : Host.Outcome State Fault Refusal :=
  conclude s <|
    match s.indexed c with
    | .error e => .error e
    | .ok _ =>
      match widthOf wc with
      | none => .error .unsupportedWidth
      | some W =>
        if ¬ (fits s.a0 W ∧ fits s.a1 W ∧ fits s.a2 W) then .error .unsupportedWidth
        else .ok (s.setContext c (crcContext W ri ro s.a0 s.a1 s.a2))

end Sys2Proof.Machine
end

