-- ==== Sys2Proof/Machine/Crc32Hw.lean ====
section
/-! DEFINITION. The CRC-32 hardware engine, its path selection and CFG_CRC32HW (spec/42_crc32hw.md). -/

namespace Sys2Proof.Machine

/-- `hw_byte(r~, b)` (R192), where `P` is the polynomial in normal form and P~ its reflection. -/
def hwByte (P r : BitVec 32) (b : Byte) : BitVec 32 := crcByteReflected (reflect P) r b

/-- `NOT r~` (R197). -/
def hwFinal (r : BitVec 32) : BitVec 32 := ~~~ r

/-- `hw_chunk(r~, q)` (R193): the 8-byte primitive, which reads its chunk as a little-endian 64-bit word. -/
def hwChunk (P r : BitVec 32) (word : Word64) : BitVec 32 := (operandBytes word 8).foldl (hwByte P) r

/-- The 64-bit word of a chunk, its first byte the least significant (R193). -/
def chunkWord (q : List Byte) : Word64 :=
  match q with
  | [] => 0
  | b :: rest => (chunkWord rest <<< 8) ||| b.setWidth 64

/-- The hardware path's update (R194): `k` chunks of 8 bytes counted from the first byte of the message, then the bytes
that are left, singly. Not used by the step: any grouping gives the same register. -/
def hwGrouped (P : BitVec 32) (k : Nat) (r : BitVec 32) (m : List Byte) : BitVec 32 :=
  match k with
  | 0 => m.foldl (hwByte P) r
  | k + 1 => hwGrouped P k (hwChunk P r (chunkWord (m.take 8))) (m.drop 8)

/-- The software path's step (R199): the table-driven engine run on `reflect_32(r~)` and reflected back. -/
def swByte (P r : BitVec 32) (b : Byte) : BitVec 32 := reflect (crcByteTable P true (reflect r) b)

/-- `select_path()` (R195): whether the context runs the hardware primitive. -/
def selectPath (p : Params) : Except CmdError Bool :=
  if p.hwcrcPresent then .ok true
  else match p.hwcrcPolicy with
    | .fallback => .ok false
    | .failFast => .error .unsupportedHardware

/-- The context CFG_CRC32HW leaves (R196). -/
def crc32hwContext (poly : BitVec 32) (path : Bool) : Context :=
  { Context.empty with
    kind := .crc32hw, width := .w32, poly := zext64 poly, init := 0xFFFFFFFF, xorout := 0xFFFFFFFF, refin := true,
    refout := true, path := path, reg := 0xFFFFFFFF }

/-- CFG_CRC32HW (R196): checks the context, that WC is 2, then the path. -/
def execCfgCrc32hw (c wc : Nat) (s : State) : Host.Outcome State Fault Refusal :=
  conclude s <|
    match s.indexed c with
    | .error e => .error e
    | .ok _ =>
      if wc ≠ 2 then .error .unsupportedWidth
      else match selectPath s.params with
        | .error e => .error e
        | .ok path => .ok (s.setContext c (crc32hwContext (HwPoly.value s.params.hwcrcPoly) path))

end Sys2Proof.Machine
end

