-- ==== Sys2Proof/Machine/Djb2.lean ====
section
/-! DEFINITION. The DJB2 and DJB2-alternate engines: CFG_DJB2, CFG_DJB2ALT (spec/44_djb2.md). -/

namespace Sys2Proof.Machine

/-- `djb2_byte(r, b)` (R240). -/
def djb2Byte {N : Nat} (r : BitVec N) (b : Byte) : BitVec N := r * 33 + b.setWidth N

/-- `djb2alt_byte(r, b)` (R241). -/
def djb2altByte {N : Nat} (r : BitVec N) (b : Byte) : BitVec N := (r * 33) ^^^ b.setWidth N

/-- The default basis (R243); none at 8 bits, where it does not fit. -/
def djb2Default : Width → Option Word64
  | .w8 => none
  | .w16 => some 0x1505
  | .w32 => some 0x1505
  | .w64 => some 0x1505

/-- The width and basis of CFG_DJB2 and CFG_DJB2ALT: the default if DF is set, else A0, which must fit (R244, R245). -/
def djb2Operands (wc : Nat) (df : Bool) (s : State) : Except CmdError (Width × Word64) :=
  match widthOf wc with
  | none => .error .unsupportedWidth
  | some W =>
    if df then
      match djb2Default W with
      | none => .error .unsupportedWidth
      | some basis => .ok (W, basis)
    else if ¬ fits s.a0 W then .error .unsupportedWidth
    else .ok (W, s.a0)

/-- The context CFG_DJB2 leaves (R244). -/
def djb2Context (W : Width) (basis : Word64) : Context :=
  { Context.empty with kind := .djb2, width := W, init := basis, reg := basis }

/-- The context CFG_DJB2ALT leaves (R245). -/
def djb2altContext (W : Width) (basis : Word64) : Context :=
  { Context.empty with kind := .djb2alt, width := W, init := basis, reg := basis }

/-- CFG_DJB2 (R244). -/
def execCfgDjb2 (c wc : Nat) (df : Bool) (s : State) : Host.Outcome State Fault Refusal :=
  conclude s <|
    match s.indexed c with
    | .error e => .error e
    | .ok _ =>
      match djb2Operands wc df s with
      | .error e => .error e
      | .ok (W, basis) => .ok (s.setContext c (djb2Context W basis))

/-- CFG_DJB2ALT (R245). -/
def execCfgDjb2alt (c wc : Nat) (df : Bool) (s : State) : Host.Outcome State Fault Refusal :=
  conclude s <|
    match s.indexed c with
    | .error e => .error e
    | .ok _ =>
      match djb2Operands wc df s with
      | .error e => .error e
      | .ok (W, basis) => .ok (s.setContext c (djb2altContext W basis))

end Sys2Proof.Machine
end

