-- ==== Sys2Proof/Machine/ModInv.lean ====
section
/-! DEFINITION. The modular inverse and the command MODINV (spec/40_modinv.md). -/

namespace Sys2Proof.Machine

/-- Newton steps towards the inverse of `v`: x <- x * (2 - v * x) mod 2^N, each doubling the correct low bits (R152,
90_conflicts.md C4). -/
def newtonSteps {N : Nat} (v : BitVec N) (k : Nat) (x : BitVec N) : BitVec N :=
  match k with
  | 0 => x
  | k + 1 => newtonSteps v k (x * (2 - v * x))

/-- `inverse_W(v)` for odd `v`, by the reference algorithm: five steps from x = v (R150, R152). -/
def inverse {N : Nat} (v : BitVec N) : BitVec N := newtonSteps v 5 v

/-- `inverse_W` on a register that holds a W-bit value (R150). -/
def inverseAt (W : Width) (v : Word64) : Word64 := zext64 (inverse (narrow W v))

/-- MODINV (R151): checks the width code, then the fit of A0, then that it is odd. -/
def execModinv (wc : Nat) (s : State) : Host.Outcome State Fault Refusal :=
  conclude s <|
    match widthOf wc with
    | none => .error .unsupportedWidth
    | some W =>
      if ¬ fits s.a0 W then .error .unsupportedWidth
      else if s.a0.getLsbD 0 = false then .error .nonInvertible
      else .ok (s.setRes (inverseAt W s.a0))

end Sys2Proof.Machine
end

