-- ==== Sys2Proof/Machine/Fnv.lean ====
section
/-! DEFINITION. The FNV-1a engine and its inverse: CFG_FNV, CFG_FNVINV, UNSTEP (spec/43_fnv.md). -/

namespace Sys2Proof.Machine

/-- `fnv_byte(r, b)` (R210): XOR, then multiply by the prime. -/
def fnvByte {N : Nat} (p r : BitVec N) (b : Byte) : BitVec N := (r ^^^ b.setWidth N) * p

/-- `fnv_unstep(r, b)` (R216): multiply by the prime's inverse `q`, then XOR. -/
def fnvUnstep {N : Nat} (q r : BitVec N) (b : Byte) : BitVec N := (r * q) ^^^ b.setWidth N

/-- The default basis and prime (R213, R214); none at 8 and 16 bits. The 64-bit basis is what the spec marks as its own
general knowledge (log 19). -/
def fnvDefaults : Width → Option (Word64 × Word64)
  | .w8 => none
  | .w16 => none
  | .w32 => some (0x811C9DC5, 0x01000193)
  | .w64 => some (0xCBF29CE484222325, 0x00000100000001B3)

/-- The width, basis and prime of CFG_FNV and CFG_FNVINV: the defaults if DF is set, else A0 and A1, which must fit
(R212, R217). -/
def fnvOperands (wc : Nat) (df : Bool) (s : State) : Except CmdError (Width × Word64 × Word64) :=
  match widthOf wc with
  | none => .error .unsupportedWidth
  | some W =>
    if df then
      match fnvDefaults W with
      | none => .error .unsupportedWidth
      | some (basis, prime) => .ok (W, basis, prime)
    else if ¬ (fits s.a0 W ∧ fits s.a1 W) then .error .unsupportedWidth
    else .ok (W, s.a0, s.a1)

/-- The context CFG_FNV leaves (R212). -/
def fnvContext (W : Width) (basis prime : Word64) : Context :=
  { Context.empty with kind := .fnv, width := W, init := basis, prime := prime, reg := basis }

/-- The context CFG_FNVINV leaves (R217). -/
def fnvinvContext (W : Width) (basis prime : Word64) : Context :=
  { Context.empty with
    kind := .fnvinv, width := W, init := basis, prime := prime, pinv := inverseAt W prime, reg := basis }

/-- CFG_FNV (R212); any prime is accepted, even or odd (R215). -/
def execCfgFnv (c wc : Nat) (df : Bool) (s : State) : Host.Outcome State Fault Refusal :=
  conclude s <|
    match s.indexed c with
    | .error e => .error e
    | .ok _ =>
      match fnvOperands wc df s with
      | .error e => .error e
      | .ok (W, basis, prime) => .ok (s.setContext c (fnvContext W basis prime))

/-- CFG_FNVINV (R217): the checks of CFG_FNV, then that the prime is odd. -/
def execCfgFnvinv (c wc : Nat) (df : Bool) (s : State) : Host.Outcome State Fault Refusal :=
  conclude s <|
    match s.indexed c with
    | .error e => .error e
    | .ok _ =>
      match fnvOperands wc df s with
      | .error e => .error e
      | .ok (W, basis, prime) =>
        if prime.getLsbD 0 = false then .error .nonInvertible
        else .ok (s.setContext c (fnvinvContext W basis prime))

/-- UNSTEP (R218): on an FNVINV context only; the byte is A0[7:0], the rest of A0 is ignored. -/
def execUnstep (c : Nat) (s : State) : Host.Outcome State Fault Refusal :=
  conclude s <|
    match s.checkContext c Kind.inverse? with
    | .error e => .error e
    | .ok (_, x) =>
      .ok (s.setReg c x
        (zext64 (fnvUnstep (narrow x.width x.pinv) (narrow x.width x.reg) (operandByte s.a0 0))))

end Sys2Proof.Machine
end

