-- ==== Sys2Proof/Machine/ContextOps.lean ====
section
/-! DEFINITION. The kind functions and the commands that drive a context of any kind: NOP, RESET, UPDATE, UPDATEI, FINAL,
LOADREG, READREG, QUERY, RELEASE (spec/45_context_ops.md). -/

namespace Sys2Proof.Machine

/-- `step_K(r, b)` (R260), a W-bit result zero-extended. It reads the context's configuration fields only. -/
def stepByte (k : StreamKind) (x : Context) (r : Word64) (b : Byte) : Word64 :=
  match k with
  | .crc => zext64 (crcByte (narrow x.width x.poly) x.refin (narrow x.width r) b)
  | .crc32hw => zext64 (hwByte (x.poly.setWidth 32) (r.setWidth 32) b)
  | .fnv => zext64 (fnvByte (narrow x.width x.prime) (narrow x.width r) b)
  | .djb2 => zext64 (djb2Byte (narrow x.width r) b)
  | .djb2alt => zext64 (djb2altByte (narrow x.width r) b)

/-- `final_K(r)` (R260), zero-extended. -/
def finalValue (k : StreamKind) (x : Context) (r : Word64) : Word64 :=
  match k with
  | .crc => zext64 (crcFinal x.refout (narrow x.width x.xorout) (narrow x.width r))
  | .crc32hw => zext64 (hwFinal (r.setWidth 32))
  | .fnv => r
  | .djb2 => r
  | .djb2alt => r

/-- The register after a message: `fold(step_K, r, m)` (R20, R162). -/
def foldMessage (k : StreamKind) (x : Context) (r : Word64) (m : List Byte) : Word64 := m.foldl (stepByte k x) r

/-- The descriptor QUERY returns (R269): PATH, REFOUT, REFIN, the width code, a zero, KIND. -/
def descriptor (x : Context) : Word64 :=
  zext64 (BitVec.ofBool x.path ++ BitVec.ofBool x.refout ++ BitVec.ofBool x.refin ++ widthCode x.width ++ 0#1
    ++ Kind.code x.kind)

/-- NOP (R262). -/
def execNop (s : State) : Host.Outcome State Fault Refusal := conclude s (.ok s)

/-- RESET (R263): REG <- INIT. -/
def execReset (c : Nat) (s : State) : Host.Outcome State Fault Refusal :=
  conclude s <|
    match s.checkContext c Kind.anyEngine with
    | .error e => .error e
    | .ok (_, x) => .ok (s.setReg c x x.init)

/-- UPDATE (R264): the whole span is admitted before any byte is read. -/
def execUpdate (c : Nat) (s : State) : Host.Outcome State Fault Refusal :=
  conclude s <|
    match s.checkContext c Kind.stream? with
    | .error e => .error e
    | .ok (k, x) =>
      if ¬ spanOk s.params s.a0.toNat s.a1.toNat then .error .spanFault
      else .ok (s.setReg c x (foldMessage k x x.reg (s.spanBytes s.a0.toNat s.a1.toNat)))

/-- UPDATEI (R265): n + 1 bytes of A0, the least significant first. -/
def execUpdatei (c n : Nat) (s : State) : Host.Outcome State Fault Refusal :=
  conclude s <|
    match s.checkContext c Kind.stream? with
    | .error e => .error e
    | .ok (k, x) => .ok (s.setReg c x (foldMessage k x x.reg (operandBytes s.a0 (n + 1))))

/-- FINAL (R266): RES gets the result of the message so far; REG stays. -/
def execFinal (c : Nat) (s : State) : Host.Outcome State Fault Refusal :=
  conclude s <|
    match s.checkContext c Kind.stream? with
    | .error e => .error e
    | .ok (k, x) => .ok (s.setRes (finalValue k x x.reg))

/-- LOADREG (R267): REG <- A0, which must fit. -/
def execLoadreg (c : Nat) (s : State) : Host.Outcome State Fault Refusal :=
  conclude s <|
    match s.checkContext c Kind.anyEngine with
    | .error e => .error e
    | .ok (_, x) => if ¬ fits s.a0 x.width then .error .unsupportedWidth else .ok (s.setReg c x s.a0)

/-- READREG (R268): RES <- REG. -/
def execReadreg (c : Nat) (s : State) : Host.Outcome State Fault Refusal :=
  conclude s <|
    match s.checkContext c Kind.anyEngine with
    | .error e => .error e
    | .ok (_, x) => .ok (s.setRes x.reg)

/-- QUERY (R269); a NONE context has a descriptor too. -/
def execQuery (c : Nat) (s : State) : Host.Outcome State Fault Refusal :=
  conclude s <|
    match s.indexed c with
    | .error e => .error e
    | .ok x => .ok (s.setRes (descriptor x))

/-- RELEASE (R270): back to NONE, every field at its reset value. -/
def execRelease (c : Nat) (s : State) : Host.Outcome State Fault Refusal :=
  conclude s <|
    match s.indexed c with
    | .error e => .error e
    | .ok _ => .ok (s.setContext c Context.empty)

end Sys2Proof.Machine
end

