-- ==== Sys2Proof/Machine/Dispatch.lean ====
section
/-! DEFINITION. The meaning of each command, one arm per row of the opcode table (spec/30_encoding.md R119). -/

namespace Sys2Proof.Machine

def exec (i : Instr) (s : State) : Host.Outcome State Fault Refusal :=
  match i with
  | .nop => Sys2Proof.Machine.execNop s
  | .cfgCrc c wc ri ro => Sys2Proof.Machine.execCfgCrc c wc ri ro s
  | .cfgCrc32hw c wc => Sys2Proof.Machine.execCfgCrc32hw c wc s
  | .cfgFnv c wc df => Sys2Proof.Machine.execCfgFnv c wc df s
  | .cfgFnvinv c wc df => Sys2Proof.Machine.execCfgFnvinv c wc df s
  | .cfgDjb2 c wc df => Sys2Proof.Machine.execCfgDjb2 c wc df s
  | .cfgDjb2alt c wc df => Sys2Proof.Machine.execCfgDjb2alt c wc df s
  | .reset c => Sys2Proof.Machine.execReset c s
  | .update c => Sys2Proof.Machine.execUpdate c s
  | .updatei c n => Sys2Proof.Machine.execUpdatei c n s
  | .final c => Sys2Proof.Machine.execFinal c s
  | .unstep c => Sys2Proof.Machine.execUnstep c s
  | .loadreg c => Sys2Proof.Machine.execLoadreg c s
  | .readreg c => Sys2Proof.Machine.execReadreg c s
  | .query c => Sys2Proof.Machine.execQuery c s
  | .release c => Sys2Proof.Machine.execRelease c s
  | .modinv wc => Sys2Proof.Machine.execModinv wc s

end Sys2Proof.Machine
end

