-- ==== Sys2Proof/Machine/Window.lean ====
section
/-! DEFINITION. The host's side: running a command word, the interface register window, and what each host event does
(spec/10_state.md R33 to R39; spec/20_memory.md R87 to R90; spec/30_encoding.md R124). -/

namespace Sys2Proof.Machine

/-- `execute(v)` (R124): an illegal word raises ILLEGAL_COMMAND (R121), any other runs its command. -/
def runCommand (v : Word32) (s : State) : Host.Outcome State Fault Refusal :=
  match decode v with
  | .error _ => conclude s (.error .illegalCommand)
  | .ok i => exec i s

/-! ### The window -/

/-- The offset in the window of an access that R88 admits: 32 bits at a multiple of 4, 64 bits at a multiple of 8,
inside the 256 bytes at IFBASE. -/
def admitted (p : Params) (size : AccessSize) (addr : Nat) : Option Nat :=
  if addr < p.ifbase ∨ p.ifbase + 256 ≤ addr then none
  else match size with
    | .b8 => none
    | .b16 => none
    | .b32 => if (addr - p.ifbase) % 4 = 0 then some (addr - p.ifbase) else none
    | .b64 => if (addr - p.ifbase) % 8 = 0 then some (addr - p.ifbase) else none

/-- Bits 31:0 of a 64-bit register (R87). -/
def lowHalf (v : Word64) : Word32 := v.extractLsb' 0 32

/-- Bits 63:32 of a 64-bit register (R87). -/
def highHalf (v : Word64) : Word32 := v.extractLsb' 32 32

/-- What a 32-bit read at an offset returns (R33, R87). CMD reads 0 (R34), and so does every reserved offset (R39). -/
def window32 (s : State) (off : Nat) : Word32 :=
  match off with
  | 0x08 => lowHalf s.a0
  | 0x0C => highHalf s.a0
  | 0x10 => lowHalf s.a1
  | 0x14 => highHalf s.a1
  | 0x18 => lowHalf s.a2
  | 0x1C => highHalf s.a2
  | 0x20 => lowHalf s.res
  | 0x24 => highHalf s.res
  | 0x28 => s.status
  | 0x30 => s.cap
  | _ => 0

/-- What a 64-bit read returns: the two 32-bit locations, the lower offset in the low half (R87, R88). -/
def window64 (s : State) (off : Nat) : Word64 := window32 s (off + 4) ++ window32 s off

/-- The register with its low half replaced, the other half kept (R87). -/
def withLow (v : Word64) (w : Word32) : Word64 := highHalf v ++ w

/-- The register with its high half replaced, the other half kept (R87). -/
def withHigh (v : Word64) (w : Word32) : Word64 := w ++ lowHalf v

/-- A 32-bit write at an offset: CMD starts a command (R34), A0 to A2 take the half (R35, R87), every other location
ignores it (R37, R38, R36, R39). -/
def store32 (off : Nat) (v : Word32) (s : State) : Host.Outcome State Fault Refusal :=
  match off with
  | 0x00 => runCommand v s
  | 0x08 => .next { s with a0 := withLow s.a0 v }
  | 0x0C => .next { s with a0 := withHigh s.a0 v }
  | 0x10 => .next { s with a1 := withLow s.a1 v }
  | 0x14 => .next { s with a1 := withHigh s.a1 v }
  | 0x18 => .next { s with a2 := withLow s.a2 v }
  | 0x1C => .next { s with a2 := withHigh s.a2 v }
  | _ => .next s

/-- A 64-bit write: the two 32-bit locations in ascending order (R87, R88). -/
def store64 (off : Nat) (v : Word64) (s : State) : Host.Outcome State Fault Refusal :=
  match store32 off (lowHalf v) s with
  | .next t => store32 (off + 4) (highHalf v) t
  | .fault r => .fault r
  | .refused r => .refused r

/-- The value a read returns, recorded (R55). -/
def State.logRead (s : State) (v : Word64) : State := { s with readLog := v :: s.readLog }

/-! ### Host events -/

/-- A host read of the window; it has no side effect on CORE (R90). -/
def hostRead (size : AccessSize) (addr : Nat) (s : State) : Host.Outcome State Fault Refusal :=
  match admitted s.params size addr with
  | none => .fault .accessNotAdmitted
  | some off =>
    match size with
    | .b64 => .next (s.logRead (window64 s off))
    | .b32 => .next (s.logRead (zext64 (window32 s off)))
    | .b16 => .fault .accessNotAdmitted
    | .b8 => .fault .accessNotAdmitted

/-- A host write of the window (R90). -/
def hostWrite (size : AccessSize) (addr : Nat) (v : Word64) (s : State) : Host.Outcome State Fault Refusal :=
  match admitted s.params size addr with
  | none => .fault .accessNotAdmitted
  | some off =>
    match size with
    | .b64 => store64 off v s
    | .b32 => store32 off (lowHalf v) s
    | .b16 => .fault .accessNotAdmitted
    | .b8 => .fault .accessNotAdmitted

/-- The host stores a byte of DMEM (R81, R95); a byte that does not exist cannot be stored. -/
def hostDmemWrite (addr : Nat) (b : Byte) (s : State) : Host.Outcome State Fault Refusal :=
  if dmemValid s.params addr then .next { s with dmem := Memory.store s.dmem addr b } else .fault .dmemAbsent

/-- One host event takes effect. -/
def perform (e : HostEvent) (s : State) : Host.Outcome State Fault Refusal :=
  match e with
  | .read size addr => hostRead size addr s
  | .write size addr v => hostWrite size addr v s
  | .dmemWrite addr b => hostDmemWrite addr b s
  | .reset => .next s.afterReset

/-- The next host event, if any, is taken and takes effect; with none, CORE does nothing (R315, R341; log 5). -/
def advance (s : State) : Host.Outcome State Fault Refusal :=
  match s.pending with
  | [] => .next s
  | e :: rest => perform e { s with pending := rest }

/-- The host write that starts the command `v`: 32 bits to CMD, at IFBASE (R34). -/
def cmdWrite (p : Params) (v : Word32) : HostEvent := .write .b32 p.ifbase (v.setWidth 64)

end Sys2Proof.Machine
end

