-- ==== Sys2Proof/Machine/Step.lean ====
section
/-! DEFINITION. One step of the machine: the next host event takes effect (spec/10_state.md R31, R32; spec/20_memory.md
R94). -/

namespace Sys2Proof.Machine

/-- One step (R31, R32, R94). -/
def step (s : State) : Host.Outcome State Fault Refusal := advance s

/-- The state in which the very next host event is the write of the command word `w` to CMD (log 4). The bits of the
word above `nbits` are zero. -/
def State.withFetchWord (s : State) (nbits w : Nat) : State :=
  { s with pending := cmdWrite s.params (BitVec.ofNat 32 (w % 2 ^ nbits)) :: s.pending }

end Sys2Proof.Machine
end

