-- ==== Sys2Proof/Machine/Assembler.lean ====
section
/-! DEFINITION. The assembly language of CORE: a listing of host accesses, one a line, and its pseudo-instructions
(spec/30_encoding.md R125 to R127). A listing becomes the list of host events that State takes as `pending`. -/

namespace Sys2Proof.Machine

/-- The registers `rd` can read (R127). -/
inductive WindowReg where
  | res | status | cap | a0 | a1 | a2
  deriving DecidableEq, Repr

/-- A line of a listing. -/
inductive AsmLine where
  /-- An empty line, or a comment alone. -/
  | blank
  /-- A command mnemonic: one 32-bit write to CMD (R125, R126). -/
  | command (i : Instr)
  /-- `li a<k>, <imm64>`: one 64-bit write. -/
  | li (k : Nat) (imm : Word64)
  /-- `cmd <imm32>`: one 32-bit write to CMD, of any word. -/
  | cmd (w : Word32)
  /-- `rd <R>`: one read. -/
  | rd (r : WindowReg)
  /-- `dmem <addr>, …`: the host's writes of the bytes from `addr` upward. -/
  | dmem (addr : Nat) (bytes : List Byte)
  /-- A pseudo-instruction: `li` of each operand in order, then the command. -/
  | withOperands (loads : List (Nat × Word64)) (i : Instr)
  deriving DecidableEq, Repr

/-- One 64-bit host write of operand register `k` (R33, R127). -/
def liEvent (p : Params) (k : Nat) (imm : Word64) : HostEvent := .write .b64 (p.ifbase + 0x08 + 8 * k) imm

/-- One host read of a register, as wide as the register (R33, R127). -/
def rdEvent (p : Params) (r : WindowReg) : HostEvent :=
  match r with
  | .res => .read .b64 (p.ifbase + 0x20)
  | .status => .read .b32 (p.ifbase + 0x28)
  | .cap => .read .b32 (p.ifbase + 0x30)
  | .a0 => .read .b64 (p.ifbase + 0x08)
  | .a1 => .read .b64 (p.ifbase + 0x10)
  | .a2 => .read .b64 (p.ifbase + 0x18)

/-- Host writes of the bytes to DMEM from `addr` upward (R127). -/
def dmemEvents (addr : Nat) (bytes : List Byte) : List HostEvent :=
  match bytes with
  | [] => []
  | b :: rest => .dmemWrite addr b :: dmemEvents (addr + 1) rest

/-- The host accesses of a line, in order (R127). -/
def AsmLine.events (p : Params) (l : AsmLine) : List HostEvent :=
  match l with
  | .blank => []
  | .command i => [cmdWrite p (encode i)]
  | .li k imm => [liEvent p k imm]
  | .cmd w => [cmdWrite p w]
  | .rd r => [rdEvent p r]
  | .dmem addr bytes => dmemEvents addr bytes
  | .withOperands loads i => loads.map (fun x => liEvent p x.1 x.2) ++ [cmdWrite p (encode i)]

/-! ### Reading a line -/

/-- A line's characters up to a comment; a quoted text may hold a semicolon. -/
def dropComment (quoted : Bool) (cs : List Char) : List Char :=
  match cs with
  | [] => []
  | ch :: rest =>
    if ch.toNat = 0x22 then ch :: dropComment (!quoted) rest
    else if ch = ';' ∧ quoted = false then []
    else ch :: dropComment quoted rest

/-- Without blanks at either end. -/
def trimChars (cs : List Char) : List Char :=
  ((cs.dropWhile (fun ch => ch = ' ')).reverse.dropWhile (fun ch => ch = ' ')).reverse

/-- The parts between commas; a quoted text may hold a comma. -/
def splitCommas (quoted : Bool) (part cs : List Char) : List (List Char) :=
  match cs with
  | [] => [part.reverse]
  | ch :: rest =>
    if ch.toNat = 0x22 then splitCommas (!quoted) (ch :: part) rest
    else if ch = ',' ∧ quoted = false then part.reverse :: splitCommas false [] rest
    else splitCommas quoted (ch :: part) rest

/-- The operands after a mnemonic. -/
def operandTokens (cs : List Char) : List (List Char) :=
  match trimChars cs with
  | [] => []
  | ch :: rest => (splitCommas false [] (ch :: rest)).map trimChars

/-- The value of a digit below 16, lower or upper case. -/
def digitValue (ch : Char) : Option Nat :=
  if '0'.toNat ≤ ch.toNat ∧ ch.toNat ≤ '9'.toNat then some (ch.toNat - '0'.toNat)
  else if 'a'.toNat ≤ ch.toNat ∧ ch.toNat ≤ 'f'.toNat then some (ch.toNat - 'a'.toNat + 10)
  else if 'A'.toNat ≤ ch.toNat ∧ ch.toNat ≤ 'F'.toNat then some (ch.toNat - 'A'.toNat + 10)
  else none

/-- Digits in a base, the most significant first. -/
def digitsValue (base acc : Nat) (cs : List Char) : Option Nat :=
  match cs with
  | [] => some acc
  | ch :: rest =>
    match digitValue ch with
    | none => none
    | some d => if d < base then digitsValue base (acc * base + d) rest else none

/-- A number in decimal or `0x` hexadecimal (R125). -/
def parseNumber (cs : List Char) : Option Nat :=
  match cs with
  | [] => none
  | '0' :: 'x' :: ch :: rest => digitsValue 16 0 (ch :: rest)
  | ch :: rest => digitsValue 10 0 (ch :: rest)

/-- A number that fits `bits` bits. -/
def parseWord (bits : Nat) (cs : List Char) : Option (BitVec bits) :=
  match parseNumber cs with
  | none => none
  | some n => if n < 2 ^ bits then some (BitVec.ofNat bits n) else none

/-- A context operand `c<k>`, k decimal, 0 to 255 (R125). -/
def parseCtx (cs : List Char) : Option Nat :=
  match cs with
  | 'c' :: ch :: rest =>
    match digitsValue 10 0 (ch :: rest) with
    | none => none
    | some n => if n < 256 then some n else none
  | _ => none

/-- A width operand `w8`, `w16`, `w32`, `w64`, or a reserved code `wc4` to `wc7` (R125, R126). -/
def parseWidth (cs : List Char) : Option Nat :=
  match cs with
  | ['w', '8'] => some 0
  | ['w', '1', '6'] => some 1
  | ['w', '3', '2'] => some 2
  | ['w', '6', '4'] => some 3
  | ['w', 'c', '4'] => some 4
  | ['w', 'c', '5'] => some 5
  | ['w', 'c', '6'] => some 6
  | ['w', 'c', '7'] => some 7
  | _ => none

/-- The trailing flags of `cfg.crc`: `[, refin] [, refout]` (R126). -/
def parseReflect (ts : List (List Char)) : Option (Bool × Bool) :=
  if ts = [] then some (false, false)
  else if ts = ["refin".toList] then some (true, false)
  else if ts = ["refout".toList] then some (false, true)
  else if ts = ["refin".toList, "refout".toList] then some (true, true)
  else none

/-- The operand register of `li` (R127). -/
def parseOperandReg (cs : List Char) : Option Nat :=
  match cs with
  | ['a', '0'] => some 0
  | ['a', '1'] => some 1
  | ['a', '2'] => some 2
  | _ => none

/-- The register of `rd` (R127). -/
def parseWindowReg (cs : List Char) : Option WindowReg :=
  if cs = "RES".toList then some .res
  else if cs = "STATUS".toList then some .status
  else if cs = "CAP".toList then some .cap
  else if cs = "A0".toList then some .a0
  else if cs = "A1".toList then some .a1
  else if cs = "A2".toList then some .a2
  else none

/-- A quoted text, as the bytes of its ASCII codes (R20). -/
def parseText (cs : List Char) : Option (List Byte) :=
  match cs with
  | [] => none
  | q :: rest =>
    if q.toNat = 0x22 ∧ rest.getLast?.map Char.toNat = some 0x22 then
      some (rest.dropLast.map (fun ch => BitVec.ofNat 8 ch.toNat))
    else none

/-- A list of byte operands. -/
def parseBytes (ts : List (List Char)) : Option (List Byte) :=
  match ts with
  | [] => some []
  | t :: rest =>
    match parseWord 8 t, parseBytes rest with
    | some b, some bs => some (b :: bs)
    | _, _ => none

/-- A line whose one operand is a context. -/
def parseCtxOnly (build : Nat → Instr) (ts : List (List Char)) : Option AsmLine :=
  match ts with
  | [t] => (parseCtx t).map (fun c => .command (build c))
  | _ => none

/-- `unstep` and `loadreg`: the context alone, or with the operand that goes to A0 first (R126, R127). -/
def parseCtxImm (build : Nat → Instr) (bits : Nat) (ts : List (List Char)) : Option AsmLine :=
  match ts with
  | [t, u] =>
    match parseCtx t, parseWord bits u with
    | some c, some v => some (.withOperands [(0, zext64 v)] (build c))
    | _, _ => none
  | _ => parseCtxOnly build ts

/-- `update c<k> [, <addr>, <len>]` (R126, R127). -/
def parseUpdate (ts : List (List Char)) : Option AsmLine :=
  match ts with
  | [t, u, v] =>
    match parseCtx t, parseWord 64 u, parseWord 64 v with
    | some c, some addr, some len => some (.withOperands [(0, addr), (1, len)] (.update c))
    | _, _, _ => none
  | _ => parseCtxOnly .update ts

/-- `updatei c<k>, [<imm>,] <count>`, count 1 to 8 (R126, R127). -/
def parseUpdatei (ts : List (List Char)) : Option AsmLine :=
  match ts with
  | [t, n] =>
    match parseCtx t, parseNumber n with
    | some c, some count => if 1 ≤ count ∧ count ≤ 8 then some (.command (.updatei c (count - 1))) else none
    | _, _ => none
  | [t, u, n] =>
    match parseCtx t, parseWord 64 u, parseNumber n with
    | some c, some imm, some count =>
      if 1 ≤ count ∧ count ≤ 8 then some (.withOperands [(0, imm)] (.updatei c (count - 1))) else none
    | _, _, _ => none
  | _ => none

/-- `modinv w<W> [, <imm>]` (R126, R127). -/
def parseModinv (ts : List (List Char)) : Option AsmLine :=
  match ts with
  | [t] => (parseWidth t).map (fun wc => .command (.modinv wc))
  | [t, u] =>
    match parseWidth t, parseWord 64 u with
    | some wc, some imm => some (.withOperands [(0, imm)] (.modinv wc))
    | _, _ => none
  | _ => none

/-- `cfg.crc c<k>, w<W> [, <poly>, <init>, <xorout>] [, refin] [, refout]` (R126, R127). -/
def parseCfgCrc (ts : List (List Char)) : Option AsmLine :=
  match ts with
  | t :: w :: rest =>
    match parseCtx t, parseWidth w, parseReflect rest with
    | some c, some wc, some (ri, ro) => some (.command (.cfgCrc c wc ri ro))
    | some c, some wc, none =>
      match rest with
      | poly :: init :: xorout :: flags =>
        match parseWord 64 poly, parseWord 64 init, parseWord 64 xorout, parseReflect flags with
        | some p, some i, some x, some (ri, ro) =>
          some (.withOperands [(0, p), (1, i), (2, x)] (.cfgCrc c wc ri ro))
        | _, _, _, _ => none
      | _ => none
    | _, _, _ => none
  | _ => none

/-- `cfg.fnv` and `cfg.fnvinv`: `c<k>, w<W> [, default]`, or with basis and prime (R126, R127). -/
def parseCfgFnv (build : Nat → Nat → Bool → Instr) (ts : List (List Char)) : Option AsmLine :=
  match ts with
  | [t, w] =>
    match parseCtx t, parseWidth w with
    | some c, some wc => some (.command (build c wc false))
    | _, _ => none
  | [t, w, d] =>
    match parseCtx t, parseWidth w with
    | some c, some wc => if d = "default".toList then some (.command (build c wc true)) else none
    | _, _ => none
  | [t, w, b, p] =>
    match parseCtx t, parseWidth w, parseWord 64 b, parseWord 64 p with
    | some c, some wc, some basis, some prime => some (.withOperands [(0, basis), (1, prime)] (build c wc false))
    | _, _, _, _ => none
  | _ => none

/-- `cfg.djb2` and `cfg.djb2alt`: `c<k>, w<W> [, default]`, or with a basis (R126, R127). -/
def parseCfgDjb2 (build : Nat → Nat → Bool → Instr) (ts : List (List Char)) : Option AsmLine :=
  match ts with
  | [t, w] =>
    match parseCtx t, parseWidth w with
    | some c, some wc => some (.command (build c wc false))
    | _, _ => none
  | [t, w, d] =>
    match parseCtx t, parseWidth w with
    | some c, some wc =>
      if d = "default".toList then some (.command (build c wc true))
      else (parseWord 64 d).map (fun basis => .withOperands [(0, basis)] (build c wc false))
    | _, _ => none
  | _ => none

/-- `li a<k>, <imm64>` (R127). -/
def parseLi (ts : List (List Char)) : Option AsmLine :=
  match ts with
  | [t, u] =>
    match parseOperandReg t, parseWord 64 u with
    | some k, some imm => some (.li k imm)
    | _, _ => none
  | _ => none

/-- `cmd <imm32>`, any word (R127). -/
def parseCmd (ts : List (List Char)) : Option AsmLine :=
  match ts with
  | [t] => (parseWord 32 t).map .cmd
  | _ => none

/-- `rd <R>` (R127). -/
def parseRd (ts : List (List Char)) : Option AsmLine :=
  match ts with
  | [t] => (parseWindowReg t).map .rd
  | _ => none

/-- `dmem <addr>, "<text>"` or `dmem <addr>, <byte>, …` (R127). -/
def parseDmem (ts : List (List Char)) : Option AsmLine :=
  match ts with
  | t :: u :: rest =>
    match parseNumber t, (if rest = [] then parseText u else none), parseBytes (u :: rest) with
    | some addr, some bytes, _ => some (.dmem addr bytes)
    | some addr, none, some bytes => some (.dmem addr bytes)
    | _, _, _ => none
  | _ => none

/-- `cfg.crc32.isohdlc c<k>`: CRC-32/ISO-HDLC, whose parameters the spec marks as its own general knowledge (R127). -/
def parseIsoHdlc (ts : List (List Char)) : Option AsmLine :=
  match ts with
  | [t] =>
    (parseCtx t).map
      (fun c => .withOperands [(0, 0x04C11DB7), (1, 0xFFFFFFFF), (2, 0xFFFFFFFF)] (.cfgCrc c 2 true true))
  | _ => none

/-- A mnemonic with its operands (R126, R127). -/
def parseStatement (mnemonic : String) (ts : List (List Char)) : Option AsmLine :=
  match mnemonic with
  | "nop" => if ts = [] then some (.command .nop) else none
  | "cfg.crc" => parseCfgCrc ts
  | "cfg.crc32hw" => parseCtxOnly (fun c => .cfgCrc32hw c 2) ts
  | "cfg.crc32.isohdlc" => parseIsoHdlc ts
  | "cfg.fnv" => parseCfgFnv .cfgFnv ts
  | "cfg.fnvinv" => parseCfgFnv .cfgFnvinv ts
  | "cfg.djb2" => parseCfgDjb2 .cfgDjb2 ts
  | "cfg.djb2alt" => parseCfgDjb2 .cfgDjb2alt ts
  | "reset" => parseCtxOnly .reset ts
  | "update" => parseUpdate ts
  | "updatei" => parseUpdatei ts
  | "final" => parseCtxOnly .final ts
  | "unstep" => parseCtxImm .unstep 8 ts
  | "loadreg" => parseCtxImm .loadreg 64 ts
  | "readreg" => parseCtxOnly .readreg ts
  | "query" => parseCtxOnly .query ts
  | "release" => parseCtxOnly .release ts
  | "modinv" => parseModinv ts
  | "li" => parseLi ts
  | "cmd" => parseCmd ts
  | "rd" => parseRd ts
  | "dmem" => parseDmem ts
  | _ => none

/-- One line of a listing (R125); none if it is not of the language. -/
def parseLine (line : String) : Option AsmLine :=
  match trimChars (dropComment false line.toList) with
  | [] => some .blank
  | ch :: rest =>
    parseStatement (String.ofList ((ch :: rest).takeWhile (fun x => x ≠ ' ')))
      (operandTokens ((ch :: rest).dropWhile (fun x => x ≠ ' ')))

/-- The host accesses of a listing, in order (R125). -/
def assemble (p : Params) (listing : List String) : Option (List HostEvent) :=
  match listing with
  | [] => some []
  | line :: rest =>
    match parseLine line, assemble p rest with
    | some l, some es => some (l.events p ++ es)
    | _, _ => none

end Sys2Proof.Machine
end

