-- ==== Sys2Proof/Safety.lean ====
section
/-! DEFINITION. What the spec promises of every state of a block: the legal parameters, the widths of the context
fields, the fields a kind leaves zero, the reserved bits of STATUS, the bytes of DMEM that exist; and what a run without
error is (spec/00_scope.md R10; spec/10_state.md R38, R42 to R48; spec/20_memory.md R81; spec/60_exceptions.md R303). -/

namespace Sys2Proof.Machine

/-- Every W-bit field of a context fits its width (R42 to R46; R43 "invariant"). -/
abbrev Context.FieldsFit (x : Context) : Prop :=
  fits x.reg x.width = true ∧ fits x.poly x.width = true ∧ fits x.init x.width = true ∧
    fits x.xorout x.width = true ∧ fits x.prime x.width = true ∧ fits x.pinv x.width = true

/-! The rows of the table of R48: which fields a kind leaves zero. -/

def Context.noEngineRow (x : Context) : Bool := decide (x.kind = .noEngine → x = Context.empty)

def Context.crcRow (x : Context) : Bool :=
  decide (x.kind = .crc → x.prime = 0 ∧ x.pinv = 0 ∧ x.path = false)

/-- The fixed configuration of CRC32HW (R190, R195). -/
def Context.crc32hwRow (p : Params) (x : Context) : Bool :=
  decide (x.kind = .crc32hw → x.width = .w32 ∧ x.poly = zext64 (HwPoly.value p.hwcrcPoly) ∧ x.init = 0xFFFFFFFF ∧
    x.xorout = 0xFFFFFFFF ∧ x.refin = true ∧ x.refout = true ∧ x.prime = 0 ∧ x.pinv = 0 ∧ x.path = p.hwcrcPresent)

def Context.fnvRow (x : Context) : Bool :=
  decide (x.kind = .fnv → x.poly = 0 ∧ x.xorout = 0 ∧ x.refin = false ∧ x.refout = false ∧ x.pinv = 0 ∧ x.path = false)

/-- PINV is the inverse of an odd PRIME (R46, R217). -/
def Context.fnvinvRow (x : Context) : Bool :=
  decide (x.kind = .fnvinv → x.poly = 0 ∧ x.xorout = 0 ∧ x.refin = false ∧ x.refout = false ∧ x.path = false ∧
    x.prime.getLsbD 0 = true ∧ x.pinv = inverseAt x.width x.prime)

def Context.djb2Row (x : Context) : Bool :=
  decide (x.kind = .djb2 ∨ x.kind = .djb2alt → x.poly = 0 ∧ x.xorout = 0 ∧ x.refin = false ∧ x.refout = false ∧
    x.prime = 0 ∧ x.pinv = 0 ∧ x.path = false)

/-- The whole table of R48. -/
abbrev Context.KindRow (p : Params) (x : Context) : Prop :=
  x.noEngineRow = true ∧ x.crcRow = true ∧ x.crc32hwRow p = true ∧ x.fnvRow = true ∧ x.fnvinvRow = true ∧
    x.djb2Row = true

/-- A context as the rules leave it. -/
abbrev Context.Wf (p : Params) (x : Context) : Prop := Context.FieldsFit x ∧ Context.KindRow p x

/-- STATUS's reserved bits read 0 and ERR is one of the codes 0 to 8 (R38, R300). -/
abbrev StatusWf (st : Word32) : Prop := st &&& 0xFFFFFEF0#32 = 0 ∧ (statusErr st).toNat ≤ 8

/-- DMEM is in its canonical form and lists only bytes that exist (R81). -/
abbrev DmemWf (p : Params) (m : Memory) : Prop := Memory.wf m = true ∧ ∀ cell ∈ m, dmemValid p cell.1 = true

/-- The invariant of the machine: it holds after reset and every step keeps it. -/
abbrev State.Inv (s : State) : Prop :=
  s.params.Legal ∧ LegalNctx s.nctx ∧ StatusWf s.status ∧ (∀ x ∈ s.contexts, Context.Wf s.params x) ∧
    DmemWf s.params s.dmem

/-- No command since the last reset raised an error (R303: a claim of "no error" reads ERRSEEN = 0). -/
abbrev State.NoError (s : State) : Prop := statusErrSeen s.status = false

end Sys2Proof.Machine
end

