-- ==== Sys2Proof/Certificates/Slice0/Obligations.lean ====
section
/-! DEFINITION. The statements for the provers. They come from the spec's numbered rules, and each holds for every
parameter value and every state its premises admit. First, the words the statements use. -/

namespace Sys2Proof.Certificates

open Sys2Proof.Machine

/-- The state after a command that raised the error with number `code`: STATUS.ERR is the code, STATUS.ERRSEEN is set,
everything else is as before the command (R301). -/
def errorState (s : State) (code : Word32) : State :=
  { s with status := (s.status &&& 0xFFFFFFF0#32) ||| 0x100#32 ||| code }

/-- The state of a command that completed: STATUS.ERR is 0, STATUS.ERRSEEN as it was (R302). -/
def doneState (s : State) : State := { s with status := s.status &&& 0xFFFFFFF0#32 }

/-- The command word of a row: a word that matches the row's mask and pattern is the command (R120), and one that has
the row's OPC and does not match raises ILLEGAL_COMMAND (R121). -/
def EncodedAs (mask pattern : Word32) (i : Word32 → Instr) : Prop :=
  ∀ v : Word32,
    (v &&& mask = pattern → decode v = .ok (i v)) ∧
    (v.extractLsb' 0 8 = pattern.extractLsb' 0 8 → v &&& mask ≠ pattern →
      ∀ s : State, runCommand v s = .next (errorState s 4))

/-- What R301 and R302 say of every command: it completed (ERR 0, the rest of STATUS as it was), or it raised one error
(its code in ERR, ERRSEEN set, the rest of STATUS as it was) and every other piece of state is as before it. -/
def CompletesOrFails (s : State) (o : Host.Outcome State Fault Refusal) : Prop :=
  ∃ t, o = .next t ∧
    ((statusErr t.status = 0 ∧ t.status = s.status &&& 0xFFFFFFF0#32) ∨
     (∃ e : CmdError, statusErr t.status = e.code ∧ statusErrSeen t.status = true ∧
       (∀ k, 4 ≤ k → k ≠ 8 → t.status.getLsbD k = s.status.getLsbD k) ∧ t = { s with status := t.status }))

/-- A context every field of which has its reset value (R48, R54, R270). -/
def emptyContext : Context :=
  { kind := .noEngine, width := .w8, reg := 0, poly := 0, init := 0, xorout := 0, refin := false, refout := false,
    prime := 0, pinv := 0, path := false }

/-- `span_ok(a, n)` in the words of R85. -/
def SpanAdmitted (p : Params) (a n : Nat) : Prop :=
  n = 0 ∨ (a + n ≤ 2 ^ p.aw ∧ ∀ i, i < n → dmemValid p (a + i) = true)

/-- The kind codes of R41. -/
def kindNumber : Kind → Nat
  | .noEngine => 0
  | .crc => 1
  | .crc32hw => 2
  | .fnv => 3
  | .fnvinv => 4
  | .djb2 => 5
  | .djb2alt => 6

/-- The context whose configuration a command replaces, if it is a CFG_* command or RELEASE (R49). -/
def configures : Instr → Option Nat
  | .nop => none
  | .cfgCrc c _ _ _ => some c
  | .cfgCrc32hw c _ => some c
  | .cfgFnv c _ _ => some c
  | .cfgFnvinv c _ _ => some c
  | .cfgDjb2 c _ _ => some c
  | .cfgDjb2alt c _ _ => some c
  | .reset _ => none
  | .update _ => none
  | .updatei _ _ => none
  | .final _ => none
  | .unstep _ => none
  | .loadreg _ => none
  | .readreg _ => none
  | .query _ => none
  | .release c => some c
  | .modinv _ => none

/-- The commands that return a value in RES (R37). -/
def returnsValue : Instr → Bool
  | .final _ => true
  | .readreg _ => true
  | .query _ => true
  | .modinv _ => true
  | .nop => false
  | .cfgCrc _ _ _ _ => false
  | .cfgCrc32hw _ _ => false
  | .cfgFnv _ _ _ => false
  | .cfgFnvinv _ _ _ => false
  | .cfgDjb2 _ _ _ => false
  | .cfgDjb2alt _ _ _ => false
  | .reset _ => false
  | .update _ => false
  | .updatei _ _ => false
  | .unstep _ => false
  | .loadreg _ => false
  | .release _ => false

/-- The commands that may raise each error (R300, the column "raised by"); ILLEGAL_COMMAND comes from decoding, so from
none. -/
def mayRaise (e : CmdError) (i : Instr) : Bool :=
  match e with
  | .unsupportedWidth =>
    match i.opcode with
    | .cfgCrc | .cfgCrc32hw | .cfgFnv | .cfgFnvinv | .cfgDjb2 | .cfgDjb2alt | .loadreg | .modinv => true
    | _ => false
  | .nonInvertible => i.opcode = .cfgFnvinv ∨ i.opcode = .modinv
  | .unsupportedHardware => i.opcode = .cfgCrc32hw
  | .illegalCommand => false
  | .badContext => i.ctx?.isSome
  | .notConfigured =>
    match i.opcode with
    | .reset | .update | .updatei | .final | .unstep | .loadreg | .readreg => true
    | _ => false
  | .kindMismatch =>
    match i.opcode with
    | .update | .updatei | .final | .unstep => true
    | _ => false
  | .spanFault => i.opcode = .update

/-- One delivery of message bytes: an UPDATE after its operands were loaded, or an UPDATEI after A0 was (R271). -/
inductive Delivery where
  | span (a n : Word64)
  | imm (v : Word64) (n : Nat)
  deriving DecidableEq, Repr

/-- The bytes a delivery carries. -/
def Delivery.bytes (s : State) : Delivery → List Byte
  | .span a n => (List.range n.toNat).map (fun i => s.readDmem (a.toNat + i))
  | .imm v n => (List.range (n + 1)).map (fun k => v.extractLsb' (8 * k) 8)

/-- A delivery's command, run with its operands loaded. -/
def Delivery.run (c : Nat) (s : State) : Delivery → Host.Outcome State Fault Refusal
  | .span a n => exec (.update c) { s with a0 := a, a1 := n }
  | .imm v n => exec (.updatei c n) { s with a0 := v }

/-- Its span, if it has one, is admitted. -/
def Delivery.Admitted (p : Params) : Delivery → Prop
  | .span a n => SpanAdmitted p a.toNat n.toNat
  | .imm _ _ => True

/-- The deliveries one after another; the first that does not give a next state ends it. -/
def deliver (c : Nat) : List Delivery → State → Host.Outcome State Fault Refusal
  | [], s => .next s
  | d :: ds, s =>
    match d.run c s with
    | .next t => deliver c ds t
    | .fault r => .fault r
    | .refused r => .refused r

/-- What an operand register holds after a list of loads: the last value loaded into it, else what it held. -/
def lastLoad (k : Nat) (loads : List (Nat × Word64)) (held : Word64) : Word64 :=
  loads.foldl (fun v l => if l.1 = k then l.2 else v) held

/-- The pseudo-instructions of R127 that end in a command, with the operands each loads into A0, A1 and A2 and the
command it then runs. The constants of `cfg.crc32.isohdlc` are what the spec marks "from general knowledge" (log 19). -/
def PseudoInstructionsExpand : Prop :=
  ∀ (ctx wid x y z byte num : List Char) (flags : List (List Char)) (c wc count : Nat) (u v w : Word64) (b : Byte)
    (ri ro : Bool),
    parseCtx ctx = some c → parseWidth wid = some wc → parseWord 64 x = some u → parseWord 64 y = some v →
    parseWord 64 z = some w → parseWord 8 byte = some b → parseNumber num = some count → 1 ≤ count → count ≤ 8 →
    parseReflect flags = some (ri, ro) →
    parseStatement "update" [ctx, x, y] = some (.withOperands [(0, u), (1, v)] (.update c)) ∧
    parseStatement "updatei" [ctx, x, num] = some (.withOperands [(0, u)] (.updatei c (count - 1))) ∧
    parseStatement "unstep" [ctx, byte] = some (.withOperands [(0, b.setWidth 64)] (.unstep c)) ∧
    parseStatement "loadreg" [ctx, x] = some (.withOperands [(0, u)] (.loadreg c)) ∧
    parseStatement "modinv" [wid, x] = some (.withOperands [(0, u)] (.modinv wc)) ∧
    parseStatement "cfg.crc" (ctx :: wid :: x :: y :: z :: flags) =
      some (.withOperands [(0, u), (1, v), (2, w)] (.cfgCrc c wc ri ro)) ∧
    parseStatement "cfg.fnv" [ctx, wid, x, y] = some (.withOperands [(0, u), (1, v)] (.cfgFnv c wc false)) ∧
    parseStatement "cfg.fnvinv" [ctx, wid, x, y] = some (.withOperands [(0, u), (1, v)] (.cfgFnvinv c wc false)) ∧
    parseStatement "cfg.djb2" [ctx, wid, x] = some (.withOperands [(0, u)] (.cfgDjb2 c wc false)) ∧
    parseStatement "cfg.djb2alt" [ctx, wid, x] = some (.withOperands [(0, u)] (.cfgDjb2alt c wc false)) ∧
    parseStatement "cfg.crc32.isohdlc" [ctx] =
      some (.withOperands [(0, 0x04C11DB7), (1, 0xFFFFFFFF), (2, 0xFFFFFFFF)] (.cfgCrc c 2 true true))

end Sys2Proof.Certificates

open Sys2Proof Sys2Proof.Machine Sys2Proof.Certificates

/-! ### Encoding -/

/-- O1. Decoding gives back every well-formed command, every field at every value it can have (R111, R119, R120). -/
def Obligations.DecodeOfEncode : Prop :=
  ∀ i : Instr, i.WellFormed → decode (encode i) = .ok i

/-- O2. A word that decodes is the encoding of the command it decodes to, so no two words are one command and no bit of
a legal word is ignored (R117, R121). -/
def Obligations.EncodeOfDecode : Prop :=
  ∀ (v : Word32) (i : Instr), decode v = .ok i → i.WellFormed ∧ encode i = v

/-- O3. R120: a word is the command of a row, with the row's fields, if and only if (word AND mask) = match. -/
def Obligations.WordIsCommandIffMaskMatches : Prop :=
  ∀ v : Word32,
    let c := (v.extractLsb' 8 8).toNat
    let wc := (v.extractLsb' 16 3).toNat
    let ri := v.getLsbD 19
    let ro := v.getLsbD 20
    let df := v.getLsbD 21
    let n := (v.extractLsb' 24 3).toNat
    (decode v = .ok .nop ↔ v &&& 0xFFFFFFFF#32 = 0x00000000#32) ∧
    (decode v = .ok (.cfgCrc c wc ri ro) ↔ v &&& 0xFFE000FF#32 = 0x00000001#32) ∧
    (decode v = .ok (.cfgCrc32hw c wc) ↔ v &&& 0xFFF800FF#32 = 0x00000002#32) ∧
    (decode v = .ok (.cfgFnv c wc df) ↔ v &&& 0xFFD800FF#32 = 0x00000003#32) ∧
    (decode v = .ok (.cfgFnvinv c wc df) ↔ v &&& 0xFFD800FF#32 = 0x00000004#32) ∧
    (decode v = .ok (.cfgDjb2 c wc df) ↔ v &&& 0xFFD800FF#32 = 0x00000005#32) ∧
    (decode v = .ok (.cfgDjb2alt c wc df) ↔ v &&& 0xFFD800FF#32 = 0x00000006#32) ∧
    (decode v = .ok (.reset c) ↔ v &&& 0xFFFF00FF#32 = 0x00000008#32) ∧
    (decode v = .ok (.update c) ↔ v &&& 0xFFFF00FF#32 = 0x00000009#32) ∧
    (decode v = .ok (.updatei c n) ↔ v &&& 0xF8FF00FF#32 = 0x0000000A#32) ∧
    (decode v = .ok (.final c) ↔ v &&& 0xFFFF00FF#32 = 0x0000000B#32) ∧
    (decode v = .ok (.unstep c) ↔ v &&& 0xFFFF00FF#32 = 0x0000000C#32) ∧
    (decode v = .ok (.loadreg c) ↔ v &&& 0xFFFF00FF#32 = 0x0000000D#32) ∧
    (decode v = .ok (.readreg c) ↔ v &&& 0xFFFF00FF#32 = 0x0000000E#32) ∧
    (decode v = .ok (.query c) ↔ v &&& 0xFFFF00FF#32 = 0x0000000F#32) ∧
    (decode v = .ok (.release c) ↔ v &&& 0xFFFF00FF#32 = 0x00000010#32) ∧
    (decode v = .ok (.modinv wc) ↔ v &&& 0xFFF8FFFF#32 = 0x00000020#32)

/-- O4. R121: a word whose OPC is not listed, or that has a reserved bit or an unused field non-zero, raises
ILLEGAL_COMMAND (4) and changes nothing else. -/
def Obligations.IllegalWordRaisesIllegalCommand : Prop :=
  ∀ (v : Word32) (s : State),
    ((v.extractLsb' 0 8).toNat ∉
        [0x00, 0x01, 0x02, 0x03, 0x04, 0x05, 0x06, 0x08, 0x09, 0x0A, 0x0B, 0x0C, 0x0D, 0x0E, 0x0F, 0x10, 0x20] ∨
      ∃ op : Opcode, op.code = (v.extractLsb' 0 8).toNat ∧ v &&& op.mask ≠ op.pattern) →
    runCommand v s = .next (errorState s 4)

/-- O5. Some of the encoding examples of R128, their words written out: a sanity check. -/
def Obligations.EncodingExamplesDecode : Prop :=
  decode 0x001A0001#32 = .ok (.cfgCrc 0 2 true true) ∧
  decode 0x00020202#32 = .ok (.cfgCrc32hw 2 2) ∧
  decode 0x00230204#32 = .ok (.cfgFnvinv 2 3 true) ∧
  decode 0x00220106#32 = .ok (.cfgDjb2alt 1 2 true) ∧
  decode 0x0700030A#32 = .ok (.updatei 3 7) ∧
  decode 0x0000020C#32 = .ok (.unstep 2) ∧
  decode 0x00030020#32 = .ok (.modinv 3)

/-! ### Host events and the step -/

/-- O6. R34: when the next host event writes a 32-bit word to CMD that decodes to a command, the step is that command's
effect, at the state whose event is taken off; a word that does not decode raises ILLEGAL_COMMAND; a 64-bit write at
offset 0 runs the command of its low word just so; and CMD reads as 0, with no effect but the value returned. -/
def Obligations.StepRunsTheDecodedCommand : Prop :=
  ∀ (s : State) (rest : List HostEvent) (size : AccessSize) (v : Word64) (i : Instr),
    size = .b32 ∨ size = .b64 →
    (s.pending = .write size s.params.ifbase v :: rest → decode (v.extractLsb' 0 32) = .ok i →
      step s = exec i { s with pending := rest }) ∧
    (s.pending = .write size s.params.ifbase v :: rest → (∀ j, decode (v.extractLsb' 0 32) ≠ .ok j) →
      step s = .next (errorState { s with pending := rest } 4)) ∧
    (s.pending = .read .b32 s.params.ifbase :: rest →
      step s = .next { s with pending := rest, readLog := 0 :: s.readLog }) ∧
    (∀ w : Word32, decode w = .ok i → step (s.withFetchWord 32 w.toNat) = exec i s)

/-- O7. R33, R87: what a host read returns at every offset, at both widths, little-endian; the read changes nothing
else. -/
def Obligations.HostReadsReturnTheRegisters : Prop :=
  ∀ (s : State) (rest : List HostEvent) (off : Nat),
    (∀ v : Word32, s.pending = .read .b32 (s.params.ifbase + off) :: rest →
      ((off, v) ∈ [(0x00, 0#32), (0x04, 0#32), (0x08, s.a0.extractLsb' 0 32), (0x0C, s.a0.extractLsb' 32 32),
          (0x10, s.a1.extractLsb' 0 32), (0x14, s.a1.extractLsb' 32 32), (0x18, s.a2.extractLsb' 0 32),
          (0x1C, s.a2.extractLsb' 32 32), (0x20, s.res.extractLsb' 0 32), (0x24, s.res.extractLsb' 32 32),
          (0x28, s.status), (0x2C, 0#32), (0x30, s.cap)] ∨
        (0x34 ≤ off ∧ off < 256 ∧ off % 4 = 0 ∧ v = 0)) →
      step s = .next { s with pending := rest, readLog := v.setWidth 64 :: s.readLog }) ∧
    (∀ v : Word64, s.pending = .read .b64 (s.params.ifbase + off) :: rest →
      ((off, v) ∈ [(0x00, 0#64), (0x08, s.a0), (0x10, s.a1), (0x18, s.a2), (0x20, s.res),
          (0x28, s.status.setWidth 64), (0x30, s.cap.setWidth 64)] ∨
        (0x38 ≤ off ∧ off < 256 ∧ off % 8 = 0 ∧ v = 0)) →
      step s = .next { s with pending := rest, readLog := v :: s.readLog })

/-- O8. R35, R87: a host write of an operand register writes it whole, or one half and leaves the other half. -/
def Obligations.HostWritesOfOperandRegisters : Prop :=
  ∀ (s : State) (rest : List HostEvent) (v : Word64),
    let w : Word32 := v.extractLsb' 0 32
    let lo (r : Word64) : Word64 := r.extractLsb' 32 32 ++ w
    let hi (r : Word64) : Word64 := w ++ r.extractLsb' 0 32
    (s.pending = .write .b64 (s.params.ifbase + 0x08) v :: rest → step s = .next { s with pending := rest, a0 := v }) ∧
    (s.pending = .write .b64 (s.params.ifbase + 0x10) v :: rest → step s = .next { s with pending := rest, a1 := v }) ∧
    (s.pending = .write .b64 (s.params.ifbase + 0x18) v :: rest → step s = .next { s with pending := rest, a2 := v }) ∧
    (s.pending = .write .b32 (s.params.ifbase + 0x08) v :: rest →
      step s = .next { s with pending := rest, a0 := lo s.a0 }) ∧
    (s.pending = .write .b32 (s.params.ifbase + 0x0C) v :: rest →
      step s = .next { s with pending := rest, a0 := hi s.a0 }) ∧
    (s.pending = .write .b32 (s.params.ifbase + 0x10) v :: rest →
      step s = .next { s with pending := rest, a1 := lo s.a1 }) ∧
    (s.pending = .write .b32 (s.params.ifbase + 0x14) v :: rest →
      step s = .next { s with pending := rest, a1 := hi s.a1 }) ∧
    (s.pending = .write .b32 (s.params.ifbase + 0x18) v :: rest →
      step s = .next { s with pending := rest, a2 := lo s.a2 }) ∧
    (s.pending = .write .b32 (s.params.ifbase + 0x1C) v :: rest →
      step s = .next { s with pending := rest, a2 := hi s.a2 })

/-- O9. R39, R90: host writes to RES, STATUS, CAP and every reserved offset are ignored. -/
def Obligations.OtherHostWritesAreIgnored : Prop :=
  ∀ (s : State) (rest : List HostEvent) (off : Nat) (v : Word64),
    (s.pending = .write .b32 (s.params.ifbase + off) v :: rest →
      off = 0x04 ∨ (0x20 ≤ off ∧ off < 256 ∧ off % 4 = 0) → step s = .next { s with pending := rest }) ∧
    (s.pending = .write .b64 (s.params.ifbase + off) v :: rest →
      0x20 ≤ off ∧ off < 256 ∧ off % 8 = 0 → step s = .next { s with pending := rest })

/-- O10. R88: 64-bit accesses at multiples of 8 and 32-bit accesses at multiples of 4 inside the window take a step,
every other access takes none (log 6), a 64-bit write is the two 32-bit writes in ascending offset order, and a 64-bit
read returns what the two 32-bit reads return, the lower offset in the low half. -/
def Obligations.OnlyAdmittedAccessesStep : Prop :=
  ∀ (s : State) (rest : List HostEvent) (e : HostEvent) (size : AccessSize) (addr : Nat) (v : Word64),
    s.pending = e :: rest → (e = .read size addr ∨ e = .write size addr v) →
    let inside := s.params.ifbase ≤ addr ∧ addr < s.params.ifbase + 256
    let aligned := (size = .b64 ∧ (addr - s.params.ifbase) % 8 = 0) ∨ (size = .b32 ∧ (addr - s.params.ifbase) % 4 = 0)
    (inside ∧ aligned → ∃ t, step s = .next t) ∧
    (¬ (inside ∧ aligned) → step s = .fault .accessNotAdmitted) ∧
    (inside ∧ aligned → e = .write .b64 addr v →
      step s = Sys2Proof.core.run 2
        { s with pending := .write .b32 addr v :: .write .b32 (addr + 4) (v >>> 32) :: rest }) ∧
    (inside ∧ aligned → e = .read .b64 addr → ∃ lo hi : Word32,
      step { s with pending := .read .b32 addr :: rest } =
        .next { s with pending := rest, readLog := lo.setWidth 64 :: s.readLog } ∧
      step { s with pending := .read .b32 (addr + 4) :: rest } =
        .next { s with pending := rest, readLog := hi.setWidth 64 :: s.readLog } ∧
      step s = .next { s with pending := rest, readLog := (hi ++ lo) :: s.readLog })

/-- O11. R81, R82, R315: a host store of a DMEM byte that exists changes that byte and no other, and nothing else of the
machine; of a byte that does not exist, it stops (log 8); with no host event left, the machine stays as it is (log 5). -/
def Obligations.DmemStoresAndIdling : Prop :=
  ∀ (s : State) (rest : List HostEvent) (a : Nat) (b : Byte),
    (s.pending = .dmemWrite a b :: rest → dmemValid s.params a = true →
      ∃ m, step s = .next { s with pending := rest, dmem := m } ∧
        State.readDmem { s with pending := rest, dmem := m } a = b ∧
        ∀ a', a' ≠ a → State.readDmem { s with pending := rest, dmem := m } a' = s.readDmem a') ∧
    (s.pending = .dmemWrite a b :: rest → dmemValid s.params a = false → step s = .fault .dmemAbsent) ∧
    (s.pending = [] → step s = .next s)

/-- O12. R340, R54: the reset event gives every register and context its reset value, keeps NCTX and the parameters, and
does not change DMEM; every byte reads as before. -/
def Obligations.ResetEventGivesResetValues : Prop :=
  ∀ (s : State) (rest : List HostEvent), s.pending = .reset :: rest →
    ∃ t, step s = .next t ∧ t.a0 = 0 ∧ t.a1 = 0 ∧ t.a2 = 0 ∧ t.res = 0 ∧ t.status = 0 ∧ t.cap = s.cap ∧
      t.params = s.params ∧ t.nctx = s.nctx ∧
      (∀ (c : Nat) (x : Context), t.contexts[c]? = some x →
        x = emptyContext) ∧
      t.dmem = s.dmem ∧ (∀ a, t.readDmem a = s.readDmem a) ∧ t.pending = rest ∧ t.readLog = s.readLog

/-- O13. R54: the value of every piece of state after reset, for a block of `n` contexts with parameters `p`. The empty
`pending`, the empty `readLog` and the byte a DMEM address reads as are the model's (log 3, log 7). -/
def Obligations.StateAfterReset : Prop :=
  ∀ (n : Nat) (p : Params),
    let s := State.resetFor n p
    s.a0 = 0 ∧ s.a1 = 0 ∧ s.a2 = 0 ∧ s.res = 0 ∧ s.status = 0 ∧ statusErr s.status = 0 ∧
    statusErrSeen s.status = false ∧ s.params = p ∧ s.nctx = n ∧
    (∀ c : Nat, s.contexts[c]? = if c < n then
      some emptyContext else none) ∧
    s.pending = [] ∧ s.readLog = [] ∧ (∀ a, s.readDmem a = Config.dmemPowerOn a)

/-- O14. The invariant holds after reset, for every legal NCTX and parameters, and so for State.reset. -/
def Obligations.ResetMeetsTheInvariant : Prop :=
  (∀ (n : Nat) (p : Params), LegalNctx n → p.Legal → (State.resetFor n p).Inv) ∧ State.reset.Inv

/-- O15. Every step keeps the invariant: every context field stays below 2^W (R43), each kind keeps its row of R48,
PINV stays the inverse of PRIME, STATUS's reserved bits stay 0 and its code legal (R38, R300), DMEM stays in its
canonical form and lists only bytes that exist. -/
def Obligations.StepKeepsTheInvariant : Prop :=
  ∀ s t : State, s.Inv → step s = .next t → t.Inv

/-! ### Errors -/

/-- O16. R301, R302: every command, and every word written to CMD, answers a next state, in which either it completed or
it raised one error and changed STATUS only. -/
def Obligations.CommandCompletesOrChangesOnlyStatus : Prop :=
  ∀ s : State, (∀ i : Instr, CompletesOrFails s (exec i s)) ∧ (∀ v : Word32, CompletesOrFails s (runCommand v s))

/-- O17. R303: ERRSEEN is sticky. No step but a reset clears it, and a reset does. -/
def Obligations.ErrSeenIsSticky : Prop :=
  ∀ s t : State, step s = .next t →
    (statusErrSeen s.status = true → s.pending.head? ≠ some .reset → statusErrSeen t.status = true) ∧
    (s.pending.head? = some .reset → statusErrSeen t.status = false)

/-- O18. R304, step 2: every command that uses CTX reports BAD_CONTEXT (5) when CTX ≥ NCTX, whatever else is wrong, and
changes nothing else. -/
def Obligations.BadContextComesFirst : Prop :=
  ∀ (i : Instr) (s : State) (c : Nat), i.ctx? = some c → s.nctx ≤ c → exec i s = .next (errorState s 5)

/-- O19. R300, R154: an error is raised only by the commands the table lists for it; NON_INVERTIBLE by MODINV and
CFG_FNVINV only, SPAN_FAULT by UPDATE only. -/
def Obligations.ErrorsOnlyFromTheirCommands : Prop :=
  ∀ (i : Instr) (s t : State) (e : CmdError), exec i s = .next t → statusErr t.status = e.code → mayRaise e i = true

/-! ### The commands, rule by rule: encoding, errors in order, effect -/

/-- O20. R262. -/
def Obligations.NopRule : Prop :=
  EncodedAs 0xFFFFFFFF#32 0x00000000#32 (fun _ => .nop) ∧ ∀ s : State, exec .nop s = .next (doneState s)

/-- O21. R263. -/
def Obligations.ResetRule : Prop :=
  EncodedAs 0xFFFF00FF#32 0x00000008#32 (fun v => .reset (v.extractLsb' 8 8).toNat) ∧
  ∀ (s : State) (c : Nat),
    (s.nctx ≤ c → exec (.reset c) s = .next (errorState s 5)) ∧
    ∀ x, s.contexts[c]? = some x →
      (x.kind = .noEngine → exec (.reset c) s = .next (errorState s 6)) ∧
      (x.kind ≠ .noEngine →
        exec (.reset c) s = .next (doneState { s with contexts := s.contexts.set c { x with reg := x.init } }))

/-- O22. R264, with the span of R84 and its admission in the words of R85. -/
def Obligations.UpdateRule : Prop :=
  EncodedAs 0xFFFF00FF#32 0x00000009#32 (fun v => .update (v.extractLsb' 8 8).toNat) ∧
  ∀ (s : State) (c : Nat),
    (s.nctx ≤ c → exec (.update c) s = .next (errorState s 5)) ∧
    ∀ x, s.contexts[c]? = some x →
      (x.kind = .noEngine → exec (.update c) s = .next (errorState s 6)) ∧
      (x.kind = .fnvinv → exec (.update c) s = .next (errorState s 7)) ∧
      ∀ k, Kind.stream? x.kind = some k →
        (¬ SpanAdmitted s.params s.a0.toNat s.a1.toNat → exec (.update c) s = .next (errorState s 8)) ∧
        (SpanAdmitted s.params s.a0.toNat s.a1.toNat →
          exec (.update c) s = .next (doneState { s with
            contexts := s.contexts.set c { x with
              reg := ((List.range s.a1.toNat).map (fun i => s.readDmem (s.a0.toNat + i))).foldl (stepByte k x) x.reg } }))

/-- O23. R265. -/
def Obligations.UpdateiRule : Prop :=
  EncodedAs 0xF8FF00FF#32 0x0000000A#32 (fun v => .updatei (v.extractLsb' 8 8).toNat (v.extractLsb' 24 3).toNat) ∧
  ∀ (s : State) (c n : Nat),
    (s.nctx ≤ c → exec (.updatei c n) s = .next (errorState s 5)) ∧
    ∀ x, s.contexts[c]? = some x →
      (x.kind = .noEngine → exec (.updatei c n) s = .next (errorState s 6)) ∧
      (x.kind = .fnvinv → exec (.updatei c n) s = .next (errorState s 7)) ∧
      ∀ k, Kind.stream? x.kind = some k →
        exec (.updatei c n) s = .next (doneState { s with
          contexts := s.contexts.set c { x with
            reg := ((List.range (n + 1)).map (fun j => s.a0.extractLsb' (8 * j) 8)).foldl (stepByte k x) x.reg } })

/-- O24. R266. -/
def Obligations.FinalRule : Prop :=
  EncodedAs 0xFFFF00FF#32 0x0000000B#32 (fun v => .final (v.extractLsb' 8 8).toNat) ∧
  ∀ (s : State) (c : Nat),
    (s.nctx ≤ c → exec (.final c) s = .next (errorState s 5)) ∧
    ∀ x, s.contexts[c]? = some x →
      (x.kind = .noEngine → exec (.final c) s = .next (errorState s 6)) ∧
      (x.kind = .fnvinv → exec (.final c) s = .next (errorState s 7)) ∧
      ∀ k, Kind.stream? x.kind = some k →
        exec (.final c) s = .next (doneState { s with res := finalValue k x x.reg })

/-- O25. R267. -/
def Obligations.LoadregRule : Prop :=
  EncodedAs 0xFFFF00FF#32 0x0000000D#32 (fun v => .loadreg (v.extractLsb' 8 8).toNat) ∧
  ∀ (s : State) (c : Nat),
    (s.nctx ≤ c → exec (.loadreg c) s = .next (errorState s 5)) ∧
    ∀ x, s.contexts[c]? = some x →
      (x.kind = .noEngine → exec (.loadreg c) s = .next (errorState s 6)) ∧
      (x.kind ≠ .noEngine → 2 ^ x.width.bits ≤ s.a0.toNat → exec (.loadreg c) s = .next (errorState s 1)) ∧
      (x.kind ≠ .noEngine → s.a0.toNat < 2 ^ x.width.bits →
        exec (.loadreg c) s = .next (doneState { s with contexts := s.contexts.set c { x with reg := s.a0 } }))

/-- O26. R268. -/
def Obligations.ReadregRule : Prop :=
  EncodedAs 0xFFFF00FF#32 0x0000000E#32 (fun v => .readreg (v.extractLsb' 8 8).toNat) ∧
  ∀ (s : State) (c : Nat),
    (s.nctx ≤ c → exec (.readreg c) s = .next (errorState s 5)) ∧
    ∀ x, s.contexts[c]? = some x →
      (x.kind = .noEngine → exec (.readreg c) s = .next (errorState s 6)) ∧
      (x.kind ≠ .noEngine → exec (.readreg c) s = .next (doneState { s with res := x.reg }))

/-- O27. R269: the descriptor's bits are 2:0 KIND, 3 zero, 5:4 the width code log2(W / 8), 6 REFIN, 7 REFOUT, 8 PATH. A
NONE context answers too, with 0 when its fields have their reset values. -/
def Obligations.QueryRule : Prop :=
  EncodedAs 0xFFFF00FF#32 0x0000000F#32 (fun v => .query (v.extractLsb' 8 8).toNat) ∧
  ∀ (s : State) (c : Nat),
    (s.nctx ≤ c → exec (.query c) s = .next (errorState s 5)) ∧
    ∀ x, s.contexts[c]? = some x →
      exec (.query c) s = .next (doneState { s with
        res := BitVec.ofNat 64 (kindNumber x.kind + Nat.log2 (x.width.bits / 8) * 16 + x.refin.toNat * 64
          + x.refout.toNat * 128 + x.path.toNat * 256) }) ∧
      (x = emptyContext → exec (.query c) s = .next (doneState { s with res := 0 }))

/-- O28. R270. -/
def Obligations.ReleaseRule : Prop :=
  EncodedAs 0xFFFF00FF#32 0x00000010#32 (fun v => .release (v.extractLsb' 8 8).toNat) ∧
  ∀ (s : State) (c : Nat),
    (s.nctx ≤ c → exec (.release c) s = .next (errorState s 5)) ∧
    (c < s.nctx →
      exec (.release c) s = .next (doneState { s with
        contexts := s.contexts.set c emptyContext }))

/-- O29. R164. -/
def Obligations.CfgCrcRule : Prop :=
  EncodedAs 0xFFE000FF#32 0x00000001#32
    (fun v => .cfgCrc (v.extractLsb' 8 8).toNat (v.extractLsb' 16 3).toNat (v.getLsbD 19) (v.getLsbD 20)) ∧
  ∀ (s : State) (c wc : Nat) (ri ro : Bool),
    (s.nctx ≤ c → exec (.cfgCrc c wc ri ro) s = .next (errorState s 5)) ∧
    (c < s.nctx → 4 ≤ wc → exec (.cfgCrc c wc ri ro) s = .next (errorState s 1)) ∧
    ∀ W : Width, c < s.nctx → W.bits = 8 * 2 ^ wc →
      (2 ^ W.bits ≤ s.a0.toNat ∨ 2 ^ W.bits ≤ s.a1.toNat ∨ 2 ^ W.bits ≤ s.a2.toNat →
        exec (.cfgCrc c wc ri ro) s = .next (errorState s 1)) ∧
      (s.a0.toNat < 2 ^ W.bits → s.a1.toNat < 2 ^ W.bits → s.a2.toNat < 2 ^ W.bits →
        exec (.cfgCrc c wc ri ro) s = .next (doneState { s with
          contexts := s.contexts.set c
            { kind := .crc, width := W, reg := s.a1, poly := s.a0, init := s.a1, xorout := s.a2, refin := ri,
              refout := ro, prime := 0, pinv := 0, path := false } }))

/-- O30. R196, with the path selection of R195. -/
def Obligations.CfgCrc32hwRule : Prop :=
  EncodedAs 0xFFF800FF#32 0x00000002#32 (fun v => .cfgCrc32hw (v.extractLsb' 8 8).toNat (v.extractLsb' 16 3).toNat) ∧
  ∀ (s : State) (c wc : Nat),
    (s.nctx ≤ c → exec (.cfgCrc32hw c wc) s = .next (errorState s 5)) ∧
    (c < s.nctx → wc ≠ 2 → exec (.cfgCrc32hw c wc) s = .next (errorState s 1)) ∧
    (c < s.nctx → wc = 2 → s.params.hwcrcPresent = false → s.params.hwcrcPolicy = .failFast →
      exec (.cfgCrc32hw c wc) s = .next (errorState s 3)) ∧
    (c < s.nctx → wc = 2 → s.params.hwcrcPresent = true ∨ s.params.hwcrcPolicy = .fallback →
      exec (.cfgCrc32hw c wc) s = .next (doneState { s with
        contexts := s.contexts.set c
          { kind := .crc32hw, width := .w32, reg := 0xFFFFFFFF,
            poly := if s.params.hwcrcPoly = .p04C11DB7 then 0x04C11DB7 else 0x1EDC6F41,
            init := 0xFFFFFFFF, xorout := 0xFFFFFFFF, refin := true, refout := true, prime := 0, pinv := 0,
            path := s.params.hwcrcPresent } }))

/-- O31. R212; the defaults are those of `fnvDefaults` (stated in DefaultConstants). -/
def Obligations.CfgFnvRule : Prop :=
  EncodedAs 0xFFD800FF#32 0x00000003#32
    (fun v => .cfgFnv (v.extractLsb' 8 8).toNat (v.extractLsb' 16 3).toNat (v.getLsbD 21)) ∧
  ∀ (s : State) (c wc : Nat) (df : Bool),
    (s.nctx ≤ c → exec (.cfgFnv c wc df) s = .next (errorState s 5)) ∧
    (c < s.nctx → 4 ≤ wc → exec (.cfgFnv c wc df) s = .next (errorState s 1)) ∧
    ∀ W : Width, c < s.nctx → W.bits = 8 * 2 ^ wc →
      (df = true → W.bits = 8 ∨ W.bits = 16 → exec (.cfgFnv c wc df) s = .next (errorState s 1)) ∧
      (df = false → 2 ^ W.bits ≤ s.a0.toNat ∨ 2 ^ W.bits ≤ s.a1.toNat →
        exec (.cfgFnv c wc df) s = .next (errorState s 1)) ∧
      ∀ basis prime : Word64,
        (df = true ∧ fnvDefaults W = some (basis, prime)) ∨
          (df = false ∧ basis = s.a0 ∧ prime = s.a1 ∧ basis.toNat < 2 ^ W.bits ∧ prime.toNat < 2 ^ W.bits) →
        exec (.cfgFnv c wc df) s = .next (doneState { s with
          contexts := s.contexts.set c
            { kind := .fnv, width := W, reg := basis, poly := 0, init := basis, xorout := 0, refin := false,
              refout := false, prime := prime, pinv := 0, path := false } })

/-- O32. R217; PINV is the W-bit value whose product with the prime is 1 mod 2^W (R150). -/
def Obligations.CfgFnvinvRule : Prop :=
  EncodedAs 0xFFD800FF#32 0x00000004#32
    (fun v => .cfgFnvinv (v.extractLsb' 8 8).toNat (v.extractLsb' 16 3).toNat (v.getLsbD 21)) ∧
  ∀ (s : State) (c wc : Nat) (df : Bool),
    (s.nctx ≤ c → exec (.cfgFnvinv c wc df) s = .next (errorState s 5)) ∧
    (c < s.nctx → 4 ≤ wc → exec (.cfgFnvinv c wc df) s = .next (errorState s 1)) ∧
    ∀ W : Width, c < s.nctx → W.bits = 8 * 2 ^ wc →
      (df = true → W.bits = 8 ∨ W.bits = 16 → exec (.cfgFnvinv c wc df) s = .next (errorState s 1)) ∧
      (df = false → 2 ^ W.bits ≤ s.a0.toNat ∨ 2 ^ W.bits ≤ s.a1.toNat →
        exec (.cfgFnvinv c wc df) s = .next (errorState s 1)) ∧
      ∀ basis prime : Word64,
        (df = true ∧ fnvDefaults W = some (basis, prime)) ∨
          (df = false ∧ basis = s.a0 ∧ prime = s.a1 ∧ basis.toNat < 2 ^ W.bits ∧ prime.toNat < 2 ^ W.bits) →
        (prime.toNat % 2 = 0 → exec (.cfgFnvinv c wc df) s = .next (errorState s 2)) ∧
        (prime.toNat % 2 = 1 → ∃ q : Word64, q.toNat < 2 ^ W.bits ∧ (q.toNat * prime.toNat) % 2 ^ W.bits = 1 ∧
          exec (.cfgFnvinv c wc df) s = .next (doneState { s with
            contexts := s.contexts.set c
              { kind := .fnvinv, width := W, reg := basis, poly := 0, init := basis, xorout := 0, refin := false,
                refout := false, prime := prime, pinv := q, path := false } }))

/-- O33. R218, with the inverse step of R216. -/
def Obligations.UnstepRule : Prop :=
  EncodedAs 0xFFFF00FF#32 0x0000000C#32 (fun v => .unstep (v.extractLsb' 8 8).toNat) ∧
  ∀ (s : State) (c : Nat),
    (s.nctx ≤ c → exec (.unstep c) s = .next (errorState s 5)) ∧
    ∀ x, s.contexts[c]? = some x →
      (x.kind = .noEngine → exec (.unstep c) s = .next (errorState s 6)) ∧
      (x.kind ≠ .noEngine → x.kind ≠ .fnvinv → exec (.unstep c) s = .next (errorState s 7)) ∧
      (x.kind = .fnvinv → ∃ r : Word64,
        r.toNat = ((x.reg.toNat * x.pinv.toNat) % 2 ^ x.width.bits) ^^^ (s.a0.toNat % 256) ∧
        exec (.unstep c) s = .next (doneState { s with contexts := s.contexts.set c { x with reg := r } }))

/-- O34. R244, with the default basis of R243. -/
def Obligations.CfgDjb2Rule : Prop :=
  EncodedAs 0xFFD800FF#32 0x00000005#32
    (fun v => .cfgDjb2 (v.extractLsb' 8 8).toNat (v.extractLsb' 16 3).toNat (v.getLsbD 21)) ∧
  ∀ (s : State) (c wc : Nat) (df : Bool),
    (s.nctx ≤ c → exec (.cfgDjb2 c wc df) s = .next (errorState s 5)) ∧
    (c < s.nctx → 4 ≤ wc → exec (.cfgDjb2 c wc df) s = .next (errorState s 1)) ∧
    ∀ W : Width, c < s.nctx → W.bits = 8 * 2 ^ wc →
      (df = true → W.bits = 8 → exec (.cfgDjb2 c wc df) s = .next (errorState s 1)) ∧
      (df = false → 2 ^ W.bits ≤ s.a0.toNat → exec (.cfgDjb2 c wc df) s = .next (errorState s 1)) ∧
      ∀ basis : Word64,
        (df = true ∧ W.bits ≠ 8 ∧ basis = 0x1505) ∨ (df = false ∧ basis = s.a0 ∧ basis.toNat < 2 ^ W.bits) →
        exec (.cfgDjb2 c wc df) s = .next (doneState { s with
          contexts := s.contexts.set c
            { kind := .djb2, width := W, reg := basis, poly := 0, init := basis, xorout := 0, refin := false,
              refout := false, prime := 0, pinv := 0, path := false } })

/-- O35. R245, with the default basis of R243. -/
def Obligations.CfgDjb2altRule : Prop :=
  EncodedAs 0xFFD800FF#32 0x00000006#32
    (fun v => .cfgDjb2alt (v.extractLsb' 8 8).toNat (v.extractLsb' 16 3).toNat (v.getLsbD 21)) ∧
  ∀ (s : State) (c wc : Nat) (df : Bool),
    (s.nctx ≤ c → exec (.cfgDjb2alt c wc df) s = .next (errorState s 5)) ∧
    (c < s.nctx → 4 ≤ wc → exec (.cfgDjb2alt c wc df) s = .next (errorState s 1)) ∧
    ∀ W : Width, c < s.nctx → W.bits = 8 * 2 ^ wc →
      (df = true → W.bits = 8 → exec (.cfgDjb2alt c wc df) s = .next (errorState s 1)) ∧
      (df = false → 2 ^ W.bits ≤ s.a0.toNat → exec (.cfgDjb2alt c wc df) s = .next (errorState s 1)) ∧
      ∀ basis : Word64,
        (df = true ∧ W.bits ≠ 8 ∧ basis = 0x1505) ∨ (df = false ∧ basis = s.a0 ∧ basis.toNat < 2 ^ W.bits) →
        exec (.cfgDjb2alt c wc df) s = .next (doneState { s with
          contexts := s.contexts.set c
            { kind := .djb2alt, width := W, reg := basis, poly := 0, init := basis, xorout := 0, refin := false,
              refout := false, prime := 0, pinv := 0, path := false } })

/-- O36. R151: RES gets the W-bit value whose product with A0 is 1 mod 2^W (R150). -/
def Obligations.ModinvRule : Prop :=
  EncodedAs 0xFFF8FFFF#32 0x00000020#32 (fun v => .modinv (v.extractLsb' 16 3).toNat) ∧
  ∀ (s : State) (wc : Nat),
    (4 ≤ wc → exec (.modinv wc) s = .next (errorState s 1)) ∧
    ∀ W : Width, W.bits = 8 * 2 ^ wc →
      (2 ^ W.bits ≤ s.a0.toNat → exec (.modinv wc) s = .next (errorState s 1)) ∧
      (s.a0.toNat < 2 ^ W.bits → s.a0.toNat % 2 = 0 → exec (.modinv wc) s = .next (errorState s 2)) ∧
      (s.a0.toNat < 2 ^ W.bits → s.a0.toNat % 2 = 1 → ∃ x : Word64,
        x.toNat < 2 ^ W.bits ∧ (x.toNat * s.a0.toNat) % 2 ^ W.bits = 1 ∧
        exec (.modinv wc) s = .next (doneState { s with res := x }))

/-! ### The functions the commands use -/

/-- O37. R260, R246: the step and the final function of each kind. The functions take the unit that `Kind.stream?` gives
of a context's KIND, so that is said for every kind: each kind of STREAM is its own unit, and NONE and FNVINV have
neither function. -/
def Obligations.KindFunctions : Prop :=
  (∀ (x : Context) (r : Word64) (b : Byte),
    stepByte .crc x r b =
      (crcByte (x.poly.setWidth x.width.bits) x.refin (r.setWidth x.width.bits) b).setWidth 64 ∧
    stepByte .crc32hw x r b = (hwByte (x.poly.setWidth 32) (r.setWidth 32) b).setWidth 64 ∧
    stepByte .fnv x r b = (fnvByte (x.prime.setWidth x.width.bits) (r.setWidth x.width.bits) b).setWidth 64 ∧
    stepByte .djb2 x r b = (djb2Byte (r.setWidth x.width.bits) b).setWidth 64 ∧
    stepByte .djb2alt x r b = (djb2altByte (r.setWidth x.width.bits) b).setWidth 64 ∧
    finalValue .crc x r =
      (crcFinal x.refout (x.xorout.setWidth x.width.bits) (r.setWidth x.width.bits)).setWidth 64 ∧
    finalValue .crc32hw x r = (~~~ (r.setWidth 32 : BitVec 32)).setWidth 64 ∧
    finalValue .fnv x r = r ∧ finalValue .djb2 x r = r ∧ finalValue .djb2alt x r = r) ∧
  (Kind.stream? .crc = some .crc ∧ Kind.stream? .crc32hw = some .crc32hw ∧ Kind.stream? .fnv = some .fnv ∧
    Kind.stream? .djb2 = some .djb2 ∧ Kind.stream? .djb2alt = some .djb2alt ∧
    ∀ k : Kind, Kind.stream? k = none ↔ k = .noEngine ∨ k = .fnvinv) ∧
  (∀ (x : Context) (k : StreamKind) (r : Word64) (b : Byte), Kind.stream? x.kind = some k →
    (x.kind = .crc32hw → x.width = .w32) → (stepByte k x r b).toNat < 2 ^ x.width.bits)

/-- O38. R213, R214, R243: the default primes and bases. The 64-bit FNV basis is what the spec marks "from general
knowledge, not in source" (log 19). -/
def Obligations.DefaultConstants : Prop :=
  fnvDefaults .w8 = none ∧ fnvDefaults .w16 = none ∧ fnvDefaults .w32 = some (0x811C9DC5, 0x01000193) ∧
  fnvDefaults .w64 = some (0xCBF29CE484222325, 0x00000100000001B3) ∧
  djb2Default .w8 = none ∧ djb2Default .w16 = some 0x1505 ∧ djb2Default .w32 = some 0x1505 ∧
  djb2Default .w64 = some 0x1505

/-- O39. R114, R118: the width of a code is 8 << wc for codes 0 to 3 and none from 4 on, and a value fits W bits exactly
when it is below 2^W. -/
def Obligations.WidthCodesAndFits : Prop :=
  (∀ (wc : Nat) (W : Width), widthOf wc = some W ↔ wc ≤ 3 ∧ W.bits = 8 <<< wc) ∧
  (∀ wc : Nat, 4 ≤ wc → widthOf wc = none) ∧
  (∀ (v : Word64) (W : Width), fits v W = true ↔ v.toNat < 2 ^ W.bits)

/-- O40. R85: the check that takes the regions away from the span is span_ok. -/
def Obligations.SpanCheckIsSpanOk : Prop :=
  ∀ (p : Params) (a n : Nat), spanOk p a n = true ↔ SpanAdmitted p a n

/-- O41. R150: for odd v the function gives the one W-bit value whose product with v is 1 mod 2^W, and for even v there
is none. -/
def Obligations.InverseIsTheInverse : Prop :=
  ∀ (W : Width) (v : Word64), v.toNat < 2 ^ W.bits →
    (v.toNat % 2 = 1 →
      (inverseAt W v).toNat < 2 ^ W.bits ∧ ((inverseAt W v).toNat * v.toNat) % 2 ^ W.bits = 1 ∧
      ∀ y : Nat, y < 2 ^ W.bits → (y * v.toNat) % 2 ^ W.bits = 1 → y = (inverseAt W v).toNat) ∧
    (v.toNat % 2 = 0 → ¬ ∃ y : Nat, (y * v.toNat) % 2 ^ W.bits = 1)

/-- O42. R153 (b) to (e), which the spec marks as derived. -/
def Obligations.InverseProperties : Prop :=
  ∀ (W : Width) (v : Word64), v.toNat < 2 ^ W.bits → v.toNat % 2 = 1 →
    (inverseAt W v).toNat % 2 = 1 ∧
    inverseAt W (inverseAt W v) = v ∧
    inverseAt W 1 = 1 ∧
    (inverseAt W (BitVec.ofNat 64 (2 ^ W.bits - 1))).toNat = 2 ^ W.bits - 1 ∧
    ∀ W' : Width, W'.bits < W.bits →
      (inverseAt W v).toNat % 2 ^ W'.bits = (inverseAt W' (BitVec.ofNat 64 (v.toNat % 2 ^ W'.bits))).toNat

/-- O43. R15: bit N - 1 - i of the reflection is bit i, for every width. -/
def Obligations.ReflectReversesTheBits : Prop :=
  ∀ (N : Nat) (v : BitVec N) (i : Nat), i < N → (reflect v).getLsbD (N - 1 - i) = v.getLsbD i

/-- O44. R161: the byte step in exact arithmetic on the register's value, at every width of 8 bits or more. -/
def Obligations.CrcByteArithmetic : Prop :=
  ∀ (N : Nat) (P r : BitVec N) (refin : Bool) (b : Byte), 8 ≤ N →
    (crcByte P refin r b).toNat =
      (fun x : Nat => if x.testBit (N - 1) then (x * 2 % 2 ^ N) ^^^ P.toNat else x * 2 % 2 ^ N)^[8]
        (r.toNat ^^^ ((if refin then reflect b else b).toNat * 2 ^ (N - 8)))

/-- O45. R192, R193, R197: the single-byte primitive in exact arithmetic, with P~ the reflected polynomial; the 8-byte
primitive is eight of them on the little-endian bytes of the chunk; the final is the complement. -/
def Obligations.HardwareStepArithmetic : Prop :=
  (∀ (P r : BitVec 32) (b : Byte),
    (hwByte P r b).toNat =
      (fun x : Nat => if x % 2 = 1 then (x / 2) ^^^ (reflect P).toNat else x / 2)^[8] (r.toNat ^^^ b.toNat)) ∧
  (∀ (P r : BitVec 32) (w : Word64),
    hwChunk P r w = ((List.range 8).map (fun k => w.extractLsb' (8 * k) 8)).foldl (hwByte P) r) ∧
  (∀ r : BitVec 32, (hwFinal r).toNat = r.toNat ^^^ 0xFFFFFFFF)

/-- O46. R210, R216: the forward and inverse FNV steps in exact arithmetic. -/
def Obligations.FnvStepArithmetic : Prop :=
  ∀ (N : Nat) (p q r : BitVec N) (b : Byte), 8 ≤ N →
    (fnvByte p r b).toNat = ((r.toNat ^^^ b.toNat) * p.toNat) % 2 ^ N ∧
    (fnvUnstep q r b).toNat = ((r.toNat * q.toNat) % 2 ^ N) ^^^ b.toNat

/-- O47. R240, R241: the two DJB2 steps in exact arithmetic. -/
def Obligations.Djb2StepArithmetic : Prop :=
  ∀ (N : Nat) (r : BitVec N) (b : Byte), 8 ≤ N →
    (djb2Byte r b).toNat = (r.toNat * 33 + b.toNat) % 2 ^ N ∧
    (djb2altByte r b).toNat = ((r.toNat * 33) % 2 ^ N) ^^^ b.toNat

/-- O48. R166: the table step gives what the bitwise step gives, for every register, byte and variant. -/
def Obligations.TableFormAgrees : Prop :=
  ∀ (N : Nat) (P r : BitVec N) (refin : Bool) (b : Byte), 8 ≤ N → crcByteTable P refin r b = crcByte P refin r b

/-- O49. R167: the reflected-register form is the reflection of the normative form with reflectIn set, and gives its
result for either reflectOut. -/
def Obligations.ReflectedFormAgrees : Prop :=
  ∀ (N : Nat) (P r xorout : BitVec N) (b : Byte), 8 ≤ N →
    crcByteReflected (reflect P) (reflect r) b = reflect (crcByte P true r b) ∧
    crcFinal true xorout r = reflect r ^^^ xorout ∧
    crcFinal false xorout r = reflect (reflect r) ^^^ xorout

/-- O50. R198: a CRC32HW context and a CRC context with the matching variant, fed the same message, keep registers that
are each other's reflection and give the same result. -/
def Obligations.HardwareEngineEqualsGenericEngine : Prop :=
  ∀ (x y : Context) (m : List Byte),
    x.kind = .crc32hw → y.kind = .crc → y.width = .w32 → y.poly = x.poly → y.refin = true → y.refout = true →
    y.xorout = 0xFFFFFFFF → x.reg = (reflect (y.reg.setWidth 32 : BitVec 32)).setWidth 64 →
    let rx := m.foldl (stepByte .crc32hw x) x.reg
    let ry := m.foldl (stepByte .crc y) y.reg
    rx = (reflect (ry.setWidth 32 : BitVec 32)).setWidth 64 ∧ finalValue .crc32hw x rx = finalValue .crc y ry

/-- O51. R194, R199: however many 8-byte chunks a message is stepped by before its bytes are stepped singly, and on the
table-driven path too, the register is the same. -/
def Obligations.HardwarePathsAgree : Prop :=
  ∀ (P r : BitVec 32) (m : List Byte),
    (∀ k, 8 * k ≤ m.length → hwGrouped P k r m = m.foldl (hwByte P) r) ∧
    m.foldl (swByte P) r = m.foldl (hwByte P) r

/-- O52. R219: with the inverse of an odd prime, the inverse step undoes the forward step and the forward step undoes
the inverse step. -/
def Obligations.FnvInverseRoundTrip : Prop :=
  ∀ (W : Width) (p r : BitVec W.bits) (b : Byte), p.toNat % 2 = 1 →
    fnvUnstep (inverse p) (fnvByte p r b) b = r ∧ fnvByte p (fnvUnstep (inverse p) r b) b = r

/-- O53. R220: an FNVINV context with the width and prime of an FNV context, loaded with the register the FNV context
reached over a message and stepped back by UNSTEP with the message's bytes from the last to the first, each byte in A0,
ends with the register the FNV context started from. Nothing but STATUS, A0 and REG[c] changes. -/
def Obligations.UnstepWalksAMessageBack : Prop :=
  ∀ (s : State) (c : Nat) (x y : Context) (m : List Byte),
    s.contexts[c]? = some x → x.kind = .fnvinv → y.kind = .fnv → y.width = x.width → y.prime = x.prime →
    y.reg.toNat < 2 ^ y.width.bits → x.prime.toNat % 2 = 1 → x.pinv = inverseAt x.width x.prime →
    x.reg = m.foldl (stepByte .fnv y) y.reg →
    ∃ t, m.reverse.foldl
        (fun o b =>
          match o with
          | .next u => exec (.unstep c) { u with a0 := b.setWidth 64 }
          | .fault r => .fault r
          | .refused r => .refused r) (.next s) = (.next t : Host.Outcome State Fault Refusal) ∧
      t.contexts = s.contexts.set c { x with reg := y.reg } ∧
      t.a1 = s.a1 ∧ t.a2 = s.a2 ∧ t.res = s.res ∧ t.dmem = s.dmem ∧ t.params = s.params

/-! ### Whole-machine rules -/

/-- O54. R271: for a context of a STREAM kind, a message delivered by any sequence of UPDATE and UPDATEI commands with
admitted spans leaves REG = fold(step_K, REG before, the bytes in order), and no other context, RES or DMEM byte is
changed. -/
def Obligations.ChunkInvariance : Prop :=
  ∀ (s : State) (c : Nat) (x : Context) (k : StreamKind) (ds : List Delivery),
    s.contexts[c]? = some x → Kind.stream? x.kind = some k → (∀ d ∈ ds, d.Admitted s.params) →
    ∃ t, deliver c ds s = .next t ∧
      t.contexts = s.contexts.set c { x with reg := (ds.flatMap (Delivery.bytes s)).foldl (stepByte k x) x.reg } ∧
      t.res = s.res ∧ t.a2 = s.a2 ∧ t.params = s.params ∧ (∀ a, t.readDmem a = s.readDmem a)

/-- O55. The frame of every command (R35, R40, R83): A0, A1, A2, the parameters, CAP, the host's events and reads stay;
every byte of DMEM reads as before; every context but the one it names stays, and a command that names none changes no
context. -/
def Obligations.CommandFrame : Prop :=
  ∀ (i : Instr) (s t : State), exec i s = .next t →
    t.a0 = s.a0 ∧ t.a1 = s.a1 ∧ t.a2 = s.a2 ∧ t.params = s.params ∧ t.nctx = s.nctx ∧ t.cap = s.cap ∧
    t.pending = s.pending ∧ t.readLog = s.readLog ∧ (∀ a, t.readDmem a = s.readDmem a) ∧
    (∀ d : Nat, i.ctx? ≠ some d → t.contexts[d]? = s.contexts[d]?)

/-- O56. R37: RES changes only through FINAL, READREG, QUERY and MODINV, and never when the command raised an error; those
four change no context. -/
def Obligations.ResIsWrittenByFourCommands : Prop :=
  ∀ (i : Instr) (s t : State), exec i s = .next t →
    (returnsValue i = false → t.res = s.res) ∧
    (statusErr t.status ≠ 0 → t.res = s.res) ∧
    (returnsValue i = true → t.contexts = s.contexts)

/-- O57. R49: a step changes a context other than in REG only by a reset, or by running a CFG_* command or RELEASE on that
context. -/
def Obligations.ConfigurationIsImmutable : Prop :=
  ∀ (s t : State) (c : Nat) (x : Context), step s = .next t → s.contexts[c]? = some x →
    (∃ r : Word64, t.contexts[c]? = some { x with reg := r }) ∨
    s.pending.head? = some .reset ∨
    (∃ (size : AccessSize) (v : Word64) (i : Instr), s.pending.head? = some (.write size s.params.ifbase v) ∧
      decode (v.extractLsb' 0 32) = .ok i ∧ configures i = some c)

/-- O58. R99: what a command on context c does and answers does not depend on any other context: two states that differ
only in contexts other than c end with the same RES, STATUS and context c, and each keeps its other contexts. -/
def Obligations.ContextsAreIndependent : Prop :=
  ∀ (i : Instr) (s s' : State) (c : Nat), (i.ctx? = some c ∨ i.ctx? = none) →
    s' = { s with contexts := s'.contexts } → s'.contexts.length = s.contexts.length →
    s'.contexts[c]? = s.contexts[c]? →
    ∃ t t', exec i s = .next t ∧ exec i s' = .next t' ∧ t' = { t with contexts := t'.contexts } ∧
      t'.contexts[c]? = t.contexts[c]? ∧
      ∀ d, d ≠ c → t.contexts[d]? = s.contexts[d]? ∧ t'.contexts[d]? = s'.contexts[d]?

/-- O59. R36, R342: CAP's fields are the parameters, and no step changes CAP, the parameters or the number of contexts. -/
def Obligations.CapIsFixed : Prop :=
  (∀ s : State,
    s.cap.getLsbD 0 = s.params.hwcrcPresent ∧
    s.cap.getLsbD 1 = decide (s.params.hwcrcPolicy = .failFast) ∧
    s.cap.getLsbD 2 = decide (s.params.hwcrcPoly = .p1EDC6F41) ∧
    s.cap.extractLsb' 3 5 = 0 ∧
    (LegalNctx s.nctx → (s.cap.extractLsb' 8 8).toNat = s.nctx - 1) ∧
    s.cap.extractLsb' 16 8 = 0x01 ∧ s.cap.extractLsb' 24 8 = 0) ∧
  (∀ s t : State, step s = .next t → t.cap = s.cap ∧ t.params = s.params ∧ t.nctx = s.nctx)

/-- O60. R125, R127: what the host accesses of each line of a listing do, whatever events follow them. A command line
runs its command. A pseudo-instruction with any number of operands loads them in order, the last load of a register
staying, and then runs its command. `li`, `cmd`, `rd` and `dmem` do their accesses. Which operands a pseudo-instruction
loads where is PseudoInstructionsExpand. -/
def Obligations.ListingLinesRunTheirCommands : Prop :=
  PseudoInstructionsExpand ∧
  ∀ (s : State) (rest : List HostEvent),
    (s.pending = AsmLine.events s.params .blank ++ rest → s.pending = rest) ∧
    (∀ i : Instr, i.WellFormed →
      (s.pending = AsmLine.events s.params (.command i) ++ rest → step s = exec i { s with pending := rest }) ∧
      ∀ loads : List (Nat × Word64), (∀ l ∈ loads, l.1 ≤ 2) →
        s.pending = AsmLine.events s.params (.withOperands loads i) ++ rest →
        Sys2Proof.core.run (loads.length + 1) s = exec i { s with
          pending := rest, a0 := lastLoad 0 loads s.a0, a1 := lastLoad 1 loads s.a1, a2 := lastLoad 2 loads s.a2 }) ∧
    (∀ (k : Nat) (imm : Word64), k ≤ 2 → s.pending = AsmLine.events s.params (.li k imm) ++ rest →
      step s = .next { s with
        pending := rest, a0 := if k = 0 then imm else s.a0, a1 := if k = 1 then imm else s.a1,
        a2 := if k = 2 then imm else s.a2 }) ∧
    (∀ w : Word32, s.pending = AsmLine.events s.params (.cmd w) ++ rest →
      step s = runCommand w { s with pending := rest }) ∧
    (∀ (r : WindowReg) (v : Word64), (r, v) ∈ [(.res, s.res), (.status, s.status.setWidth 64),
        (.cap, s.cap.setWidth 64), (.a0, s.a0), (.a1, s.a1), (.a2, s.a2)] →
      s.pending = AsmLine.events s.params (.rd r) ++ rest →
      step s = .next { s with pending := rest, readLog := v :: s.readLog }) ∧
    (∀ (addr : Nat) (bytes : List Byte), (∀ j, j < bytes.length → dmemValid s.params (addr + j) = true) →
      s.pending = AsmLine.events s.params (.dmem addr bytes) ++ rest →
      ∃ t, Sys2Proof.core.run bytes.length s = .next t ∧ t = { s with pending := rest, dmem := t.dmem } ∧
        (∀ (j : Nat) (b : Byte), bytes[j]? = some b → t.readDmem (addr + j) = b) ∧
        ∀ a, a < addr ∨ addr + bytes.length ≤ a → t.readDmem a = s.readDmem a)
end

