-- ==== Sys2Proof/Laws/State.lean ====
section
/-! SUPPORT. One lemma per field per update of State, true by definition, so that no later proof unfolds an update. -/

namespace Sys2Proof.Machine

/-! ### State.raise -/

@[simp] theorem State.raise_params (s : State) (e : CmdError) : (s.raise e).params = s.params := rfl
@[simp] theorem State.raise_a0 (s : State) (e : CmdError) : (s.raise e).a0 = s.a0 := rfl
@[simp] theorem State.raise_a1 (s : State) (e : CmdError) : (s.raise e).a1 = s.a1 := rfl
@[simp] theorem State.raise_a2 (s : State) (e : CmdError) : (s.raise e).a2 = s.a2 := rfl
@[simp] theorem State.raise_res (s : State) (e : CmdError) : (s.raise e).res = s.res := rfl
@[simp] theorem State.raise_status (s : State) (e : CmdError) : (s.raise e).status = statusFail s.status e := rfl
@[simp] theorem State.raise_contexts (s : State) (e : CmdError) : (s.raise e).contexts = s.contexts := rfl
@[simp] theorem State.raise_dmem (s : State) (e : CmdError) : (s.raise e).dmem = s.dmem := rfl
@[simp] theorem State.raise_pending (s : State) (e : CmdError) : (s.raise e).pending = s.pending := rfl
@[simp] theorem State.raise_readLog (s : State) (e : CmdError) : (s.raise e).readLog = s.readLog := rfl

/-! ### State.complete -/

@[simp] theorem State.complete_params (s : State) : (s.complete).params = s.params := rfl
@[simp] theorem State.complete_a0 (s : State) : (s.complete).a0 = s.a0 := rfl
@[simp] theorem State.complete_a1 (s : State) : (s.complete).a1 = s.a1 := rfl
@[simp] theorem State.complete_a2 (s : State) : (s.complete).a2 = s.a2 := rfl
@[simp] theorem State.complete_res (s : State) : (s.complete).res = s.res := rfl
@[simp] theorem State.complete_status (s : State) : (s.complete).status = statusOk s.status := rfl
@[simp] theorem State.complete_contexts (s : State) : (s.complete).contexts = s.contexts := rfl
@[simp] theorem State.complete_dmem (s : State) : (s.complete).dmem = s.dmem := rfl
@[simp] theorem State.complete_pending (s : State) : (s.complete).pending = s.pending := rfl
@[simp] theorem State.complete_readLog (s : State) : (s.complete).readLog = s.readLog := rfl

/-! ### State.setContext -/

@[simp] theorem State.setContext_params (s : State) (c : Nat) (x : Context) : (s.setContext c x).params = s.params := rfl
@[simp] theorem State.setContext_a0 (s : State) (c : Nat) (x : Context) : (s.setContext c x).a0 = s.a0 := rfl
@[simp] theorem State.setContext_a1 (s : State) (c : Nat) (x : Context) : (s.setContext c x).a1 = s.a1 := rfl
@[simp] theorem State.setContext_a2 (s : State) (c : Nat) (x : Context) : (s.setContext c x).a2 = s.a2 := rfl
@[simp] theorem State.setContext_res (s : State) (c : Nat) (x : Context) : (s.setContext c x).res = s.res := rfl
@[simp] theorem State.setContext_status (s : State) (c : Nat) (x : Context) : (s.setContext c x).status = s.status := rfl
@[simp] theorem State.setContext_contexts (s : State) (c : Nat) (x : Context) : (s.setContext c x).contexts = s.contexts.set c x := rfl
@[simp] theorem State.setContext_dmem (s : State) (c : Nat) (x : Context) : (s.setContext c x).dmem = s.dmem := rfl
@[simp] theorem State.setContext_pending (s : State) (c : Nat) (x : Context) : (s.setContext c x).pending = s.pending := rfl
@[simp] theorem State.setContext_readLog (s : State) (c : Nat) (x : Context) : (s.setContext c x).readLog = s.readLog := rfl

/-! ### State.setReg -/

@[simp] theorem State.setReg_params (s : State) (c : Nat) (x : Context) (v : Word64) : (s.setReg c x v).params = s.params := rfl
@[simp] theorem State.setReg_a0 (s : State) (c : Nat) (x : Context) (v : Word64) : (s.setReg c x v).a0 = s.a0 := rfl
@[simp] theorem State.setReg_a1 (s : State) (c : Nat) (x : Context) (v : Word64) : (s.setReg c x v).a1 = s.a1 := rfl
@[simp] theorem State.setReg_a2 (s : State) (c : Nat) (x : Context) (v : Word64) : (s.setReg c x v).a2 = s.a2 := rfl
@[simp] theorem State.setReg_res (s : State) (c : Nat) (x : Context) (v : Word64) : (s.setReg c x v).res = s.res := rfl
@[simp] theorem State.setReg_status (s : State) (c : Nat) (x : Context) (v : Word64) : (s.setReg c x v).status = s.status := rfl
@[simp] theorem State.setReg_contexts (s : State) (c : Nat) (x : Context) (v : Word64) : (s.setReg c x v).contexts = s.contexts.set c { x with reg := v } := rfl
@[simp] theorem State.setReg_dmem (s : State) (c : Nat) (x : Context) (v : Word64) : (s.setReg c x v).dmem = s.dmem := rfl
@[simp] theorem State.setReg_pending (s : State) (c : Nat) (x : Context) (v : Word64) : (s.setReg c x v).pending = s.pending := rfl
@[simp] theorem State.setReg_readLog (s : State) (c : Nat) (x : Context) (v : Word64) : (s.setReg c x v).readLog = s.readLog := rfl

/-! ### State.setRes -/

@[simp] theorem State.setRes_params (s : State) (v : Word64) : (s.setRes v).params = s.params := rfl
@[simp] theorem State.setRes_a0 (s : State) (v : Word64) : (s.setRes v).a0 = s.a0 := rfl
@[simp] theorem State.setRes_a1 (s : State) (v : Word64) : (s.setRes v).a1 = s.a1 := rfl
@[simp] theorem State.setRes_a2 (s : State) (v : Word64) : (s.setRes v).a2 = s.a2 := rfl
@[simp] theorem State.setRes_res (s : State) (v : Word64) : (s.setRes v).res = v := rfl
@[simp] theorem State.setRes_status (s : State) (v : Word64) : (s.setRes v).status = s.status := rfl
@[simp] theorem State.setRes_contexts (s : State) (v : Word64) : (s.setRes v).contexts = s.contexts := rfl
@[simp] theorem State.setRes_dmem (s : State) (v : Word64) : (s.setRes v).dmem = s.dmem := rfl
@[simp] theorem State.setRes_pending (s : State) (v : Word64) : (s.setRes v).pending = s.pending := rfl
@[simp] theorem State.setRes_readLog (s : State) (v : Word64) : (s.setRes v).readLog = s.readLog := rfl

/-! ### State.logRead -/

@[simp] theorem State.logRead_params (s : State) (v : Word64) : (s.logRead v).params = s.params := rfl
@[simp] theorem State.logRead_a0 (s : State) (v : Word64) : (s.logRead v).a0 = s.a0 := rfl
@[simp] theorem State.logRead_a1 (s : State) (v : Word64) : (s.logRead v).a1 = s.a1 := rfl
@[simp] theorem State.logRead_a2 (s : State) (v : Word64) : (s.logRead v).a2 = s.a2 := rfl
@[simp] theorem State.logRead_res (s : State) (v : Word64) : (s.logRead v).res = s.res := rfl
@[simp] theorem State.logRead_status (s : State) (v : Word64) : (s.logRead v).status = s.status := rfl
@[simp] theorem State.logRead_contexts (s : State) (v : Word64) : (s.logRead v).contexts = s.contexts := rfl
@[simp] theorem State.logRead_dmem (s : State) (v : Word64) : (s.logRead v).dmem = s.dmem := rfl
@[simp] theorem State.logRead_pending (s : State) (v : Word64) : (s.logRead v).pending = s.pending := rfl
@[simp] theorem State.logRead_readLog (s : State) (v : Word64) : (s.logRead v).readLog = v :: s.readLog := rfl

/-! ### State.afterReset -/

@[simp] theorem State.afterReset_params (s : State) : (s.afterReset).params = s.params := rfl
@[simp] theorem State.afterReset_a0 (s : State) : (s.afterReset).a0 = 0 := rfl
@[simp] theorem State.afterReset_a1 (s : State) : (s.afterReset).a1 = 0 := rfl
@[simp] theorem State.afterReset_a2 (s : State) : (s.afterReset).a2 = 0 := rfl
@[simp] theorem State.afterReset_res (s : State) : (s.afterReset).res = 0 := rfl
@[simp] theorem State.afterReset_status (s : State) : (s.afterReset).status = 0 := rfl
@[simp] theorem State.afterReset_contexts (s : State) : (s.afterReset).contexts = List.replicate s.nctx Context.empty := rfl
@[simp] theorem State.afterReset_dmem (s : State) : (s.afterReset).dmem = s.dmem := rfl
@[simp] theorem State.afterReset_pending (s : State) : (s.afterReset).pending = s.pending := rfl
@[simp] theorem State.afterReset_readLog (s : State) : (s.afterReset).readLog = s.readLog := rfl

/-! ### NCTX, CAP and DMEM under the updates -/

@[simp] theorem State.raise_nctx (s : State) (e : CmdError) : (s.raise e).nctx = s.nctx := by
  simp [State.nctx]

@[simp] theorem State.raise_cap (s : State) (e : CmdError) : (s.raise e).cap = s.cap := by
  simp [State.cap]

@[simp] theorem State.raise_readDmem (s : State) (e : CmdError) (k : Nat) : (s.raise e).readDmem k = s.readDmem k := rfl

@[simp] theorem State.complete_nctx (s : State) : (s.complete).nctx = s.nctx := by
  simp [State.nctx]

@[simp] theorem State.complete_cap (s : State) : (s.complete).cap = s.cap := by
  simp [State.cap]

@[simp] theorem State.complete_readDmem (s : State) (k : Nat) : (s.complete).readDmem k = s.readDmem k := rfl

@[simp] theorem State.setContext_nctx (s : State) (c : Nat) (x : Context) : (s.setContext c x).nctx = s.nctx := by
  simp [State.nctx]

@[simp] theorem State.setContext_cap (s : State) (c : Nat) (x : Context) : (s.setContext c x).cap = s.cap := by
  simp [State.cap]

@[simp] theorem State.setContext_readDmem (s : State) (c : Nat) (x : Context) (k : Nat) : (s.setContext c x).readDmem k = s.readDmem k := rfl

@[simp] theorem State.setReg_nctx (s : State) (c : Nat) (x : Context) (v : Word64) : (s.setReg c x v).nctx = s.nctx := by
  simp [State.nctx]

@[simp] theorem State.setReg_cap (s : State) (c : Nat) (x : Context) (v : Word64) : (s.setReg c x v).cap = s.cap := by
  simp [State.cap]

@[simp] theorem State.setReg_readDmem (s : State) (c : Nat) (x : Context) (v : Word64) (k : Nat) : (s.setReg c x v).readDmem k = s.readDmem k := rfl

@[simp] theorem State.setRes_nctx (s : State) (v : Word64) : (s.setRes v).nctx = s.nctx := by
  simp [State.nctx]

@[simp] theorem State.setRes_cap (s : State) (v : Word64) : (s.setRes v).cap = s.cap := by
  simp [State.cap]

@[simp] theorem State.setRes_readDmem (s : State) (v : Word64) (k : Nat) : (s.setRes v).readDmem k = s.readDmem k := rfl

@[simp] theorem State.logRead_nctx (s : State) (v : Word64) : (s.logRead v).nctx = s.nctx := by
  simp [State.nctx]

@[simp] theorem State.logRead_cap (s : State) (v : Word64) : (s.logRead v).cap = s.cap := by
  simp [State.cap]

@[simp] theorem State.logRead_readDmem (s : State) (v : Word64) (k : Nat) : (s.logRead v).readDmem k = s.readDmem k := rfl

@[simp] theorem State.afterReset_nctx (s : State) : (s.afterReset).nctx = s.nctx := by
  simp [State.nctx]

@[simp] theorem State.afterReset_cap (s : State) : (s.afterReset).cap = s.cap := by
  simp [State.cap]

@[simp] theorem State.afterReset_readDmem (s : State) (k : Nat) : (s.afterReset).readDmem k = s.readDmem k := rfl

end Sys2Proof.Machine
end

