-- ==== Sys2Proof/Laws/Ops.lean ====
section
/-! SUPPORT. For each shared operation, everything it can do, said once. -/

namespace Sys2Proof.Machine

/-! ### The end of a command -/

@[simp] theorem conclude_error (s : State) (e : CmdError) : conclude s (.error e) = .next (s.raise e) := rfl

@[simp] theorem conclude_ok (s t : State) : conclude s (.ok t) = .next t.complete := rfl

/-- A command's result is an error raised or an effect completed. -/
theorem conclude_cases {s t : State} {r : Except CmdError State} (h : conclude s r = .next t) :
    (∃ e, r = .error e ∧ t = s.raise e) ∨ (∃ u, r = .ok u ∧ t = u.complete) := by
  cases r with
  | error e => exact .inl ⟨e, rfl, by simpa using h.symm⟩
  | ok u => exact .inr ⟨u, rfl, by simpa using h.symm⟩

/-! ### STATUS -/

theorem statusOk_eq (st : Word32) : statusOk st = st &&& 0xFFFFFFF0#32 := by
  simp [statusOk, statusWithErr]

@[simp] theorem statusErr_ok (st : Word32) : statusErr (statusOk st) = 0 := by
  rw [statusOk_eq]
  simp only [statusErr]
  ext i hi
  have : i = 0 ∨ i = 1 ∨ i = 2 ∨ i = 3 := by omega
  rcases this with h | h | h | h <;> subst h <;> simp

@[simp] theorem statusErrSeen_ok (st : Word32) : statusErrSeen (statusOk st) = statusErrSeen st := by
  simp [statusOk_eq, statusErrSeen]

@[simp] theorem statusErr_fail (st : Word32) (e : CmdError) : statusErr (statusFail st e) = e.code := by
  simp only [statusErr, statusFail, statusWithErr]
  ext i hi
  have : i = 0 ∨ i = 1 ∨ i = 2 ∨ i = 3 := by omega
  rcases this with h | h | h | h <;> subst h <;> cases e <;> simp [CmdError.code]

@[simp] theorem statusErrSeen_fail (st : Word32) (e : CmdError) : statusErrSeen (statusFail st e) = true := by
  simp [statusErrSeen, statusFail]

/-- An error's code is never 0, the code of success (R300). -/
theorem CmdError.code_ne_zero (e : CmdError) : e.code ≠ 0 := by
  cases e <;> decide

/-- The codes tell the errors apart (R300). -/
theorem CmdError.code_injective {e e' : CmdError} (h : e.code = e'.code) : e = e' := by
  cases e <;> cases e' <;> first | rfl | exact absurd h (by decide)

/-! ### Contexts -/

theorem State.indexed_of_get {s : State} {c : Nat} {x : Context} (h : s.contexts[c]? = some x) :
    s.indexed c = .ok x := by
  simp [State.indexed, h]

theorem State.indexed_of_ge {s : State} {c : Nat} (h : s.nctx ≤ c) : s.indexed c = .error .badContext := by
  have : s.contexts[c]? = none := List.getElem?_eq_none h
  simp [State.indexed, this]

/-- Every context number below NCTX names a context. -/
theorem State.get_of_lt {s : State} {c : Nat} (h : c < s.nctx) : ∃ x, s.contexts[c]? = some x :=
  ⟨s.contexts[c]'h, List.getElem?_eq_getElem h⟩

theorem State.lt_of_get {s : State} {c : Nat} {x : Context} (h : s.contexts[c]? = some x) : c < s.nctx :=
  (List.getElem?_eq_some_iff.mp h).1

theorem State.indexed_eq_ok {s : State} {c : Nat} {x : Context} :
    s.indexed c = .ok x ↔ s.contexts[c]? = some x := by
  constructor
  · intro h
    simp only [State.indexed] at h
    split at h
    · cases h
    · rename_i y hy
      cases h
      exact hy
  · exact State.indexed_of_get

theorem State.checkContext_of_ge {α : Type} {s : State} {c : Nat} (allow : Kind → Option α) (h : s.nctx ≤ c) :
    s.checkContext c allow = .error .badContext := by
  simp [State.checkContext, State.indexed_of_ge h]

theorem State.checkContext_of_none {α : Type} {s : State} {c : Nat} {x : Context} (allow : Kind → Option α)
    (h : s.contexts[c]? = some x) (hk : x.kind = .noEngine) : s.checkContext c allow = .error .notConfigured := by
  simp [State.checkContext, State.indexed_of_get h, hk]

theorem State.checkContext_of_mismatch {α : Type} {s : State} {c : Nat} {x : Context} (allow : Kind → Option α)
    (h : s.contexts[c]? = some x) (hk : x.kind ≠ .noEngine) (ha : allow x.kind = none) :
    s.checkContext c allow = .error .kindMismatch := by
  simp [State.checkContext, State.indexed_of_get h, hk, ha]

theorem State.checkContext_of_allowed {α : Type} {s : State} {c : Nat} {x : Context} (allow : Kind → Option α) {k : α}
    (h : s.contexts[c]? = some x) (hk : x.kind ≠ .noEngine) (ha : allow x.kind = some k) :
    s.checkContext c allow = .ok (k, x) := by
  simp [State.checkContext, State.indexed_of_get h, hk, ha]

/-- What it means that the check passed. -/
theorem State.checkContext_eq_ok {α : Type} {s : State} {c : Nat} {allow : Kind → Option α} {k : α} {x : Context}
    (h : s.checkContext c allow = .ok (k, x)) :
    s.contexts[c]? = some x ∧ x.kind ≠ .noEngine ∧ allow x.kind = some k := by
  simp only [State.checkContext] at h
  split at h
  · cases h
  · rename_i y hy
    have hget := State.indexed_eq_ok.mp hy
    split at h
    · cases h
    · rename_i hk
      split at h
      · cases h
      · rename_i k' hk'
        cases h
        exact ⟨hget, hk, hk'⟩

/-- A kind with a step is a configured kind. -/
theorem Kind.stream?_ne_noEngine {k : Kind} {sk : StreamKind} (h : Kind.stream? k = some sk) : k ≠ .noEngine := by
  rintro rfl
  cases h

/-! ### Widths -/

theorem Width.bits_pos (W : Width) : 0 < W.bits := by cases W <;> decide

theorem Width.eight_le_bits (W : Width) : 8 ≤ W.bits := by cases W <;> decide

theorem Width.bits_le (W : Width) : W.bits ≤ 64 := by cases W <;> decide

/-- The width of a code, from its size. -/
theorem widthOf_of_bits {wc : Nat} {W : Width} (h : W.bits = 8 * 2 ^ wc) : widthOf wc = some W := by
  have hle : 8 * 2 ^ wc ≤ 64 := h ▸ Width.bits_le W
  have hwc : wc < 4 := by
    by_contra hc
    have : 2 ^ 4 ≤ 2 ^ wc := Nat.pow_le_pow_right (by decide) (by omega)
    omega
  have : wc = 0 ∨ wc = 1 ∨ wc = 2 ∨ wc = 3 := by omega
  rcases this with rfl | rfl | rfl | rfl <;> cases W <;> first | rfl | exact absurd h (by decide)

theorem widthOf_of_ge {wc : Nat} (h : 4 ≤ wc) : widthOf wc = none := by
  match wc, h with
  | n + 4, _ => rfl

/-- A value fits W bits when it is below 2^W. -/
theorem fits_eq_true_iff (v : Word64) (W : Width) : fits v W = true ↔ v.toNat < 2 ^ W.bits := by
  simp only [fits, beq_iff_eq]
  rw [← BitVec.toNat_inj, BitVec.toNat_ushiftRight, Nat.shiftRight_eq_div_pow]
  exact Nat.div_eq_zero_iff_lt (Nat.two_pow_pos _)

/-- A narrowed value that fits is the value. -/
theorem zext64_narrow {W : Width} {v : Word64} (h : v.toNat < 2 ^ W.bits) : zext64 (narrow W v) = v := by
  apply BitVec.eq_of_toNat_eq
  simp only [zext64, narrow, BitVec.toNat_setWidth]
  rw [Nat.mod_eq_of_lt h, Nat.mod_eq_of_lt v.isLt]

/-- Zero extension keeps the value. -/
theorem toNat_zext64 {N : Nat} (h : N ≤ 64) (v : BitVec N) : (zext64 v).toNat = v.toNat := by
  simp only [zext64, BitVec.toNat_setWidth]
  exact Nat.mod_eq_of_lt (Nat.lt_of_lt_of_le v.isLt (Nat.pow_le_pow_right (by decide) h))

/-- A zero-extended W-bit value fits W bits. -/
theorem fits_zext64 {W : Width} (v : BitVec W.bits) : fits (zext64 v) W = true := by
  rw [fits_eq_true_iff, toNat_zext64 (Width.bits_le W)]
  exact v.isLt

/-- Narrowing undoes zero extension. -/
theorem narrow_zext64 {W : Width} (v : BitVec W.bits) : narrow W (zext64 v) = v := by
  apply BitVec.eq_of_toNat_eq
  simp only [narrow, BitVec.toNat_setWidth, toNat_zext64 (Width.bits_le W)]
  exact Nat.mod_eq_of_lt v.isLt

end Sys2Proof.Machine
end

