-- ==== Sys2Proof/Laws/Commands.lean ====
section
/-! SUPPORT. What a command can do, said once: it ends through `conclude`, and its effect is nothing, a new RES, or a new
value of the one context it names. -/

namespace Sys2Proof.Machine

/-- The effects a command that completes can have. -/
def CommandEffect (i : Instr) (s u : State) : Prop :=
  u = s ∨ (∃ v, u = s.setRes v) ∨ ∃ c x, i.ctx? = some c ∧ c < s.nctx ∧ u = s.setContext c x

/-- Every command concludes, with an error or with one of those effects. -/
theorem exec_eq_conclude (i : Instr) (s : State) :
    ∃ r, exec i s = conclude s r ∧ ∀ u, r = .ok u → CommandEffect i s u := by
  cases i
  case nop => exact ⟨.ok s, rfl, fun u hu => .inl (by cases hu; rfl)⟩
  all_goals refine ⟨_, rfl, fun u hu => ?_⟩
  case modinv wc =>
    split at hu
    · cases hu
    · split at hu
      · cases hu
      · split at hu
        · cases hu
        · exact .inr (.inl ⟨_, by cases hu; rfl⟩)
  case query c =>
    split at hu
    · cases hu
    · exact .inr (.inl ⟨_, by cases hu; rfl⟩)
  case readreg c =>
    split at hu
    · cases hu
    · exact .inr (.inl ⟨_, by cases hu; rfl⟩)
  case final c =>
    split at hu
    · cases hu
    · exact .inr (.inl ⟨_, by cases hu; rfl⟩)
  case reset c =>
    split at hu
    · cases hu
    · rename_i x hx
      exact .inr (.inr ⟨c, _, rfl, State.lt_of_get (State.checkContext_eq_ok hx).1, by cases hu; rfl⟩)
  case updatei c n =>
    split at hu
    · cases hu
    · rename_i k x hx
      exact .inr (.inr ⟨c, _, rfl, State.lt_of_get (State.checkContext_eq_ok hx).1, by cases hu; rfl⟩)
  case unstep c =>
    split at hu
    · cases hu
    · rename_i x hx
      exact .inr (.inr ⟨c, _, rfl, State.lt_of_get (State.checkContext_eq_ok hx).1, by cases hu; rfl⟩)
  case update c =>
    split at hu
    · cases hu
    · rename_i k x hx
      split at hu
      · cases hu
      · exact .inr (.inr ⟨c, _, rfl, State.lt_of_get (State.checkContext_eq_ok hx).1, by cases hu; rfl⟩)
  case loadreg c =>
    split at hu
    · cases hu
    · rename_i x hx
      split at hu
      · cases hu
      · exact .inr (.inr ⟨c, _, rfl, State.lt_of_get (State.checkContext_eq_ok hx).1, by cases hu; rfl⟩)
  case release c =>
    split at hu
    · cases hu
    · rename_i x hx
      exact .inr (.inr ⟨c, _, rfl, State.lt_of_get (State.indexed_eq_ok.mp hx), by cases hu; rfl⟩)
  case cfgCrc c wc ri ro =>
    split at hu
    · cases hu
    · rename_i x hx
      split at hu
      · cases hu
      · split at hu
        · cases hu
        · exact .inr (.inr ⟨c, _, rfl, State.lt_of_get (State.indexed_eq_ok.mp hx), by cases hu; rfl⟩)
  case cfgCrc32hw c wc =>
    split at hu
    · cases hu
    · rename_i x hx
      split at hu
      · cases hu
      · split at hu
        · cases hu
        · exact .inr (.inr ⟨c, _, rfl, State.lt_of_get (State.indexed_eq_ok.mp hx), by cases hu; rfl⟩)
  case cfgFnv c wc df =>
    split at hu
    · cases hu
    · rename_i x hx
      split at hu
      · cases hu
      · exact .inr (.inr ⟨c, _, rfl, State.lt_of_get (State.indexed_eq_ok.mp hx), by cases hu; rfl⟩)
  case cfgFnvinv c wc df =>
    split at hu
    · cases hu
    · rename_i x hx
      split at hu
      · cases hu
      · split at hu
        · cases hu
        · exact .inr (.inr ⟨c, _, rfl, State.lt_of_get (State.indexed_eq_ok.mp hx), by cases hu; rfl⟩)
  case cfgDjb2 c wc df =>
    split at hu
    · cases hu
    · rename_i x hx
      split at hu
      · cases hu
      · exact .inr (.inr ⟨c, _, rfl, State.lt_of_get (State.indexed_eq_ok.mp hx), by cases hu; rfl⟩)
  case cfgDjb2alt c wc df =>
    split at hu
    · cases hu
    · rename_i x hx
      split at hu
      · cases hu
      · exact .inr (.inr ⟨c, _, rfl, State.lt_of_get (State.indexed_eq_ok.mp hx), by cases hu; rfl⟩)

/-- What a command's next state can be. -/
theorem exec_cases {i : Instr} {s t : State} (h : exec i s = .next t) :
    (∃ e, t = s.raise e) ∨ (∃ u, t = u.complete ∧ CommandEffect i s u) := by
  obtain ⟨r, hr, hu⟩ := exec_eq_conclude i s
  rcases conclude_cases (hr ▸ h) with ⟨e, -, rfl⟩ | ⟨u, hru, rfl⟩
  · exact .inl ⟨e, rfl⟩
  · exact .inr ⟨u, rfl, hu u hru⟩

end Sys2Proof.Machine
end

