-- ==== Sys2Proof/Laws/Encoding.lean ====
section
/-! SUPPORT. The fields of a packed word are the fields it was packed from (spec/30_encoding.md R111). -/

namespace Sys2Proof

/-- OPC has 8 bits (R111). -/
theorem Opcode.code_lt (op : Opcode) : op.code < 256 := by cases op <;> decide

/-- Every row is found by its OPC (R112). -/
@[simp] theorem opcodeOf_code (op : Opcode) : opcodeOf op.code = some op := by cases op <;> rfl

/-- A row found by an OPC has that OPC. -/
theorem code_of_opcodeOf {n : Nat} {op : Opcode} (h : opcodeOf n = some op) : op.code = n := by
  unfold opcodeOf at h
  split at h <;> cases h <;> rfl

/-- The value of a packed word, when every field fits its place. -/
theorem toNat_packFields {opc ctx wc n : Nat} (ri ro df : Bool) (ho : opc < 256) (hc : ctx < 256) (hw : wc < 8)
    (hn : n < 8) :
    (packFields opc ctx wc ri ro df n).toNat =
      opc + ctx * 2 ^ 8 + wc * 2 ^ 16 + ri.toNat * 2 ^ 19 + ro.toNat * 2 ^ 20 + df.toNat * 2 ^ 21 + n * 2 ^ 24 := by
  have h1 := ri.toNat_lt
  have h2 := ro.toNat_lt
  have h3 := df.toNat_lt
  simp only [packFields, BitVec.toNat_ofNat]
  omega

theorem field_eq_div_mod (v : Word32) (lo len : Nat) : field v lo len = v.toNat / 2 ^ lo % 2 ^ len := by
  simp only [field, BitVec.extractLsb'_toNat, Nat.shiftRight_eq_div_pow]

theorem getLsbD_eq_div_mod (v : Word32) (k : Nat) : v.getLsbD k = decide (v.toNat / 2 ^ k % 2 = 1) := by
  rw [← BitVec.testBit_toNat, Nat.testBit_eq_decide_div_mod_eq]

section
variable {opc ctx wc n : Nat} (ri ro df : Bool) (ho : opc < 256) (hc : ctx < 256) (hw : wc < 8) (hn : n < 8)
include ho hc hw hn

theorem fieldOpc_packFields : fieldOpc (packFields opc ctx wc ri ro df n) = opc := by
  simp only [fieldOpc, field_eq_div_mod, toNat_packFields ri ro df ho hc hw hn]
  omega

theorem fieldCtx_packFields : fieldCtx (packFields opc ctx wc ri ro df n) = ctx := by
  simp only [fieldCtx, field_eq_div_mod, toNat_packFields ri ro df ho hc hw hn]
  omega

theorem fieldWc_packFields : fieldWc (packFields opc ctx wc ri ro df n) = wc := by
  have h1 := ri.toNat_lt
  have h2 := ro.toNat_lt
  have h3 := df.toNat_lt
  simp only [fieldWc, field_eq_div_mod, toNat_packFields ri ro df ho hc hw hn]
  omega

theorem fieldN_packFields : fieldN (packFields opc ctx wc ri ro df n) = n := by
  have h1 := ri.toNat_lt
  have h2 := ro.toNat_lt
  have h3 := df.toNat_lt
  simp only [fieldN, field_eq_div_mod, toNat_packFields ri ro df ho hc hw hn]
  omega

theorem fieldRi_packFields : fieldRi (packFields opc ctx wc ri ro df n) = ri := by
  simp only [fieldRi, getLsbD_eq_div_mod, toNat_packFields ri ro df ho hc hw hn]
  cases ri <;> cases ro <;> cases df <;> simp only [Bool.toNat_false, Bool.toNat_true, decide_eq_true_eq,
    decide_eq_false_iff_not] <;> omega

theorem fieldRo_packFields : fieldRo (packFields opc ctx wc ri ro df n) = ro := by
  simp only [fieldRo, getLsbD_eq_div_mod, toNat_packFields ri ro df ho hc hw hn]
  cases ri <;> cases ro <;> cases df <;> simp only [Bool.toNat_false, Bool.toNat_true, decide_eq_true_eq,
    decide_eq_false_iff_not] <;> omega

theorem fieldDf_packFields : fieldDf (packFields opc ctx wc ri ro df n) = df := by
  simp only [fieldDf, getLsbD_eq_div_mod, toNat_packFields ri ro df ho hc hw hn]
  cases ri <;> cases ro <;> cases df <;> simp only [Bool.toNat_false, Bool.toNat_true, decide_eq_true_eq,
    decide_eq_false_iff_not] <;> omega

end

end Sys2Proof
end

