-- ==== Sys2Proof/Laws/Memory.lean ====
section
/-! SUPPORT. The laws of DMEM's written bytes: what a store does to every byte, and that it keeps the canonical form. -/

namespace Sys2Proof.Machine

@[simp] theorem Memory.written_nil (a : Nat) : Memory.written [] a = none := rfl

theorem Memory.written_cons (k : Nat) (b : Byte) (m : Memory) (a : Nat) :
    Memory.written ((k, b) :: m) a = if a = k then some b else Memory.written m a := rfl

/-- A store writes its byte and no other. -/
theorem Memory.written_store (m : Memory) (a a' : Nat) (b : Byte) :
    Memory.written (Memory.store m a b) a' = if a' = a then some b else Memory.written m a' := by
  induction m with
  | nil => simp [Memory.store, Memory.written_cons]
  | cons cell rest ih =>
    obtain ⟨k, v⟩ := cell
    simp only [Memory.store]
    split
    · simp [Memory.written_cons]
    · split
      · rename_i h
        subst h
        simp only [Memory.written_cons]
        split <;> simp_all
      · simp only [Memory.written_cons, ih]
        by_cases hk : a' = k <;> by_cases ha : a' = a <;> simp_all

/-- Rising from a bound is rising from any lower bound. -/
theorem Memory.risingFrom_mono (m : Memory) {lo lo' : Nat} (h : lo' ≤ lo) (hm : Memory.risingFrom lo m = true) :
    Memory.risingFrom lo' m = true := by
  cases m with
  | nil => rfl
  | cons cell rest =>
    simp only [Memory.risingFrom, Bool.and_eq_true, decide_eq_true_eq] at hm ⊢
    exact ⟨by omega, hm.2⟩

/-- A store at or above the bound keeps the addresses rising. -/
theorem Memory.risingFrom_store (m : Memory) (lo a : Nat) (b : Byte) (h : lo ≤ a)
    (hm : Memory.risingFrom lo m = true) : Memory.risingFrom lo (Memory.store m a b) = true := by
  induction m generalizing lo with
  | nil => simp [Memory.store, Memory.risingFrom, h]
  | cons cell rest ih =>
    obtain ⟨k, v⟩ := cell
    simp only [Memory.risingFrom, Bool.and_eq_true, decide_eq_true_eq] at hm
    simp only [Memory.store]
    split
    · simp only [Memory.risingFrom, Bool.and_eq_true, decide_eq_true_eq]
      exact ⟨h, by omega, hm.2⟩
    · split
      · rename_i hak
        subst hak
        simp only [Memory.risingFrom, Bool.and_eq_true, decide_eq_true_eq]
        exact hm
      · simp only [Memory.risingFrom, Bool.and_eq_true, decide_eq_true_eq]
        exact ⟨hm.1, ih (k + 1) (by omega) hm.2⟩

/-- A store keeps the canonical form. -/
theorem Memory.store_wf (m : Memory) (a : Nat) (b : Byte) (h : Memory.wf m = true) :
    Memory.wf (Memory.store m a b) = true :=
  Memory.risingFrom_store m 0 a b (Nat.zero_le a) h

/-- Reset memory has the canonical form. -/
theorem Memory.reset_wf : Memory.wf State.reset.dmem = true := rfl

/-- What a store lists: what was listed, and its own cell. -/
theorem Memory.mem_store (m : Memory) (a : Nat) (b : Byte) (cell : Host.Cell) (h : cell ∈ Memory.store m a b) :
    cell = (a, b) ∨ cell ∈ m := by
  induction m with
  | nil => simpa [Memory.store] using h
  | cons head rest ih =>
    obtain ⟨k, v⟩ := head
    simp only [Memory.store] at h
    split at h
    · simpa using h
    · split at h
      · rcases List.mem_cons.mp h with h | h
        · exact .inl h
        · exact .inr (List.mem_cons_of_mem _ h)
      · rcases List.mem_cons.mp h with h | h
        · exact .inr (h ▸ List.mem_cons_self)
        · exact (ih h).imp id (List.mem_cons_of_mem _)

/-- Reading a byte after a store. -/
theorem State.readDmem_store (s : State) (a a' : Nat) (b : Byte) :
    State.readDmem { s with dmem := Memory.store s.dmem a b } a' = if a' = a then b else s.readDmem a' := by
  simp only [State.readDmem, Memory.written_store]
  by_cases h : a' = a <;> simp [h]

/-- Reading a byte depends on DMEM only. -/
theorem State.readDmem_congr {s t : State} (h : t.dmem = s.dmem) (a : Nat) : t.readDmem a = s.readDmem a := by
  simp [State.readDmem, h]

end Sys2Proof.Machine
end

