-- ==== Sys2Proof/Laws/PerInstr.lean ====
section
/-! SUPPORT. Statements about every command as syntax, made per constructor. -/

namespace Sys2Proof.Laws.OpcodeField

/-- The word of a well-formed command carries its row's OPC (spec/30_encoding.md R111, R119). -/
def Statement (i : Instr) : Prop := i.WellFormed → fieldOpc (encode i) = i.opcode.code

theorem nop : Statement .nop := fun _ => by decide

theorem cfgCrc (c wc : Nat) (ri ro : Bool) : Statement (.cfgCrc c wc ri ro) := fun h => by
  simp [Instr.WellFormed, Instr.wellFormed, ctxFits, wcFits] at h
  exact fieldOpc_packFields _ _ _ (Opcode.code_lt _) h.1 h.2 (by decide)

theorem cfgCrc32hw (c wc : Nat) : Statement (.cfgCrc32hw c wc) := fun h => by
  simp [Instr.WellFormed, Instr.wellFormed, ctxFits, wcFits] at h
  exact fieldOpc_packFields _ _ _ (Opcode.code_lt _) h.1 h.2 (by decide)

theorem cfgFnv (c wc : Nat) (df : Bool) : Statement (.cfgFnv c wc df) := fun h => by
  simp [Instr.WellFormed, Instr.wellFormed, ctxFits, wcFits] at h
  exact fieldOpc_packFields _ _ _ (Opcode.code_lt _) h.1 h.2 (by decide)

theorem cfgFnvinv (c wc : Nat) (df : Bool) : Statement (.cfgFnvinv c wc df) := fun h => by
  simp [Instr.WellFormed, Instr.wellFormed, ctxFits, wcFits] at h
  exact fieldOpc_packFields _ _ _ (Opcode.code_lt _) h.1 h.2 (by decide)

theorem cfgDjb2 (c wc : Nat) (df : Bool) : Statement (.cfgDjb2 c wc df) := fun h => by
  simp [Instr.WellFormed, Instr.wellFormed, ctxFits, wcFits] at h
  exact fieldOpc_packFields _ _ _ (Opcode.code_lt _) h.1 h.2 (by decide)

theorem cfgDjb2alt (c wc : Nat) (df : Bool) : Statement (.cfgDjb2alt c wc df) := fun h => by
  simp [Instr.WellFormed, Instr.wellFormed, ctxFits, wcFits] at h
  exact fieldOpc_packFields _ _ _ (Opcode.code_lt _) h.1 h.2 (by decide)

theorem reset (c : Nat) : Statement (.reset c) := fun h => by
  simp [Instr.WellFormed, Instr.wellFormed, ctxFits] at h
  exact fieldOpc_packFields _ _ _ (Opcode.code_lt _) h (by decide) (by decide)

theorem update (c : Nat) : Statement (.update c) := fun h => by
  simp [Instr.WellFormed, Instr.wellFormed, ctxFits] at h
  exact fieldOpc_packFields _ _ _ (Opcode.code_lt _) h (by decide) (by decide)

theorem updatei (c n : Nat) : Statement (.updatei c n) := fun h => by
  simp [Instr.WellFormed, Instr.wellFormed, ctxFits, countFits] at h
  exact fieldOpc_packFields _ _ _ (Opcode.code_lt _) h.1 (by decide) h.2

theorem final (c : Nat) : Statement (.final c) := fun h => by
  simp [Instr.WellFormed, Instr.wellFormed, ctxFits] at h
  exact fieldOpc_packFields _ _ _ (Opcode.code_lt _) h (by decide) (by decide)

theorem unstep (c : Nat) : Statement (.unstep c) := fun h => by
  simp [Instr.WellFormed, Instr.wellFormed, ctxFits] at h
  exact fieldOpc_packFields _ _ _ (Opcode.code_lt _) h (by decide) (by decide)

theorem loadreg (c : Nat) : Statement (.loadreg c) := fun h => by
  simp [Instr.WellFormed, Instr.wellFormed, ctxFits] at h
  exact fieldOpc_packFields _ _ _ (Opcode.code_lt _) h (by decide) (by decide)

theorem readreg (c : Nat) : Statement (.readreg c) := fun h => by
  simp [Instr.WellFormed, Instr.wellFormed, ctxFits] at h
  exact fieldOpc_packFields _ _ _ (Opcode.code_lt _) h (by decide) (by decide)

theorem query (c : Nat) : Statement (.query c) := fun h => by
  simp [Instr.WellFormed, Instr.wellFormed, ctxFits] at h
  exact fieldOpc_packFields _ _ _ (Opcode.code_lt _) h (by decide) (by decide)

theorem release (c : Nat) : Statement (.release c) := fun h => by
  simp [Instr.WellFormed, Instr.wellFormed, ctxFits] at h
  exact fieldOpc_packFields _ _ _ (Opcode.code_lt _) h (by decide) (by decide)

theorem modinv (wc : Nat) : Statement (.modinv wc) := fun h => by
  simp [Instr.WellFormed, Instr.wellFormed, wcFits] at h
  exact fieldOpc_packFields _ _ _ (Opcode.code_lt _) (by decide) h (by decide)

end Sys2Proof.Laws.OpcodeField
end

