-- ==== Sys2Proof/Tests/Slice0.lean ====
section
/-! SUPPORT. The model's own tests: the checks of WellFormed, words written out bit by bit, the spec's vectors
(95_test_vectors.md) one command at a time, and a witness for the premises of each statement. -/

namespace Sys2Proof.Tests

open Sys2Proof.Machine Sys2Proof.Certificates

/-! ### Helpers -/

/-- The outcome is a next state with the property. -/
def nextIs (o : Host.Outcome State Fault Refusal) (p : State → Bool) : Bool :=
  match o with
  | .next t => p t
  | .fault _ => false
  | .refused _ => false

/-- The outcome is the fault. -/
def faultIs (o : Host.Outcome State Fault Refusal) (f : Fault) : Bool :=
  match o with
  | .next _ => false
  | .fault g => g = f
  | .refused _ => false

/-- Four contexts, number 0 the given one, the others NONE, and operands. -/
def withCtx (x : Context) (a0 a1 : Word64) : State :=
  { State.reset with contexts := [x, Context.empty, Context.empty, Context.empty], a0 := a0, a1 := a1 }

/-- One host write of a command word, one step. -/
def runWord (w : Word32) (s : State) : Host.Outcome State Fault Refusal := step (s.withFetchWord 32 w.toNat)

/-- A field of context 0 after the step. -/
def reg0Is (o : Host.Outcome State Fault Refusal) (v : Word64) : Bool :=
  nextIs o (fun t => t.contexts[0]?.map Context.reg == some v)

def resIs (o : Host.Outcome State Fault Refusal) (v : Word64) : Bool := nextIs o (fun t => t.res == v)

def statusIs (o : Host.Outcome State Fault Refusal) (v : Word32) : Bool := nextIs o (fun t => t.status == v)

/-- CRC-32/ISO-HDLC with a register. -/
def isoHdlc (r : Word64) : Context :=
  { crcContext .w32 true true 0x04C11DB7 0xFFFFFFFF 0xFFFFFFFF with reg := r }

/-- FNV-1a 32 with the default basis and prime. -/
def fnv32 : Context := fnvContext .w32 0x811C9DC5 0x01000193

/-- FNVINV 32 with the default basis and prime, and PINV from the vector FI-1. -/
def fnvinv32 (r : Word64) : Context :=
  { Context.empty with
    kind := .fnvinv, width := .w32, init := 0x811C9DC5, prime := 0x01000193, pinv := 0x359C449B, reg := r }

/-- DMEM with "123456789" from 0x1000. -/
def digitsDmem : Memory :=
  [(0x1000, 0x31), (0x1001, 0x32), (0x1002, 0x33), (0x1003, 0x34), (0x1004, 0x35), (0x1005, 0x36), (0x1006, 0x37),
    (0x1007, 0x38), (0x1008, 0x39)]

/-! ### WellFormed: each check refuses an ill-formed term -/

theorem test_ctx_256_is_ill_formed : ¬ (Instr.update 256).WellFormed := by decide
theorem test_ctx_255_is_well_formed : (Instr.update 255).WellFormed := by decide
theorem test_width_code_8_is_ill_formed : ¬ (Instr.modinv 8).WellFormed := by decide
theorem test_width_code_7_is_well_formed : (Instr.modinv 7).WellFormed := by decide
theorem test_count_8_is_ill_formed : ¬ (Instr.updatei 0 8).WellFormed := by decide

/-! ### Decoding: words written out from the patterns of R120, every constructor -/

theorem test_decode_nop : decode 0b00000000000000000000000000000000#32 = .ok .nop := by decide
theorem test_decode_cfgCrc : decode 0b00000000000110110000001100000001#32 = .ok (.cfgCrc 3 3 true true) := by decide
theorem test_decode_cfgCrc_refin : decode 0b00000000000010010000000100000001#32 = .ok (.cfgCrc 1 1 true false) := by
  decide
theorem test_decode_cfgCrc32hw : decode 0b00000000000000100000001000000010#32 = .ok (.cfgCrc32hw 2 2) := by decide
theorem test_decode_cfgFnv : decode 0b00000000001000100000000100000011#32 = .ok (.cfgFnv 1 2 true) := by decide
theorem test_decode_cfgFnvinv : decode 0b00000000000001111000000000000100#32 = .ok (.cfgFnvinv 128 7 false) := by decide
theorem test_decode_cfgDjb2 : decode 0b00000000001000010000000000000101#32 = .ok (.cfgDjb2 0 1 true) := by decide
theorem test_decode_cfgDjb2alt : decode 0b00000000001000100000000100000110#32 = .ok (.cfgDjb2alt 1 2 true) := by decide
theorem test_decode_reset : decode 0b00000000000000000000000100001000#32 = .ok (.reset 1) := by decide
theorem test_decode_update : decode 0b00000000000000001111111100001001#32 = .ok (.update 255) := by decide
theorem test_decode_updatei : decode 0b00000111000000000000001100001010#32 = .ok (.updatei 3 7) := by decide
theorem test_decode_final : decode 0b00000000000000000000001100001011#32 = .ok (.final 3) := by decide
theorem test_decode_unstep : decode 0b00000000000000000000001000001100#32 = .ok (.unstep 2) := by decide
theorem test_decode_loadreg : decode 0b00000000000000000000001000001101#32 = .ok (.loadreg 2) := by decide
theorem test_decode_readreg : decode 0b00000000000000000000001000001110#32 = .ok (.readreg 2) := by decide
theorem test_decode_query : decode 0b00000000000000000000001000001111#32 = .ok (.query 2) := by decide
theorem test_decode_release : decode 0b00000000000000000000001000010000#32 = .ok (.release 2) := by decide
theorem test_decode_modinv : decode 0b00000000000000110000000000100000#32 = .ok (.modinv 3) := by decide

/-- DE-1, DE-4, DE-7, DE-8 and bit 31 of NOP (DE-6): illegal words. -/
theorem test_illegal_words :
    decode 0x00000007#32 = .error .undefinedOpcode ∧ decode 0x00000100#32 = .error .reservedBits ∧
    decode 0x01000009#32 = .error .reservedBits ∧ decode 0x00020009#32 = .error .reservedBits ∧
    decode 0x80000000#32 = .error .reservedBits := by decide

/-- R128: the words of some lines. -/
theorem test_encode_examples :
    encode (.updatei 1 3) = 0x0300010A#32 ∧ encode (.cfgFnvinv 2 3 true) = 0x00230204#32 ∧
    encode (.cfgCrc 3 1 false false) = 0x00010301#32 := by decide

theorem test_table_word : decodeTableWord 32 0x00030020 = some (.modinv 3) := by decide

/-! ### Commands, against 95_test_vectors.md -/

/-- CX-10. -/
theorem test_nop_clears_err : statusIs (runWord 0x00000000 { State.reset with status := 0x102 }) 0x100 = true := by decide
/-- MI-9. -/
theorem test_modinv_w32 : resIs (runWord 0x00020020 { State.reset with a0 := 0x01000193 }) 0x359C449B = true := by
  decide +kernel
/-- MI-E4: the width check comes before the oddness check. -/
theorem test_modinv_width_first : statusIs (runWord 0x00000020 { State.reset with a0 := 0x102 }) 0x101 = true := by decide
/-- CRC-E6. -/
theorem test_cfgCrc_init_does_not_fit :
    statusIs (exec (.cfgCrc 0 1 false false) { State.reset with a0 := 0x1021, a1 := 0x10000 }) 0x101 = true := by decide
/-- R164's example. -/
theorem test_cfgCrc_iso :
    nextIs (runWord 0x001A0001 { State.reset with a0 := 0x04C11DB7, a1 := 0xFFFFFFFF, a2 := 0xFFFFFFFF })
      (fun t => t.contexts[0]? == some (isoHdlc 0xFFFFFFFF)) = true := by decide
/-- R264's example: program P1. -/
theorem test_update_iso :
    reg0Is (runWord 0x00000009 { withCtx (isoHdlc 0xFFFFFFFF) 0x1000 9 with dmem := digitsDmem }) 0x9B63D02C = true := by
  decide +kernel
/-- SP-2: the span's last byte is not valid. -/
theorem test_update_span_fault : statusIs (runWord 0x00000009 (withCtx fnv32 0x1FFE 3)) 0x108 = true := by decide +kernel
/-- R266's example. -/
theorem test_final_iso : resIs (exec (.final 0) (withCtx (isoHdlc 0x9B63D02C) 0 0)) 0xCBF43926 = true := by decide +kernel
/-- CX-1. -/
theorem test_reset_iso : reg0Is (exec (.reset 0) (withCtx (isoHdlc 0x9B63D02C) 0 0)) 0xFFFFFFFF = true := by decide
/-- R265's example: FNV-1a 32 of "a". -/
theorem test_updatei_fnv : reg0Is (exec (.updatei 0 0) (withCtx fnv32 0x61 0)) 0xE40C292C = true := by decide +kernel
/-- Program P4: CRC-16/CCITT-FALSE over "1234". -/
theorem test_updatei_crc16 :
    reg0Is (exec (.updatei 0 3) (withCtx (crcContext .w16 false false 0x1021 0xFFFF 0) 0x34333231 0)) 0x5349 = true := by
  decide +kernel
/-- L2.3: "12345678" with HWCRC_POLY 0x04C11DB7. -/
theorem test_updatei_crc32hw :
    reg0Is (exec (.updatei 0 7) (withCtx (crc32hwContext 0x04C11DB7 true) 0x3837363534333231 0)) 0x651F2550 = true := by
  decide +kernel
/-- L2.3: CFG_CRC32HW falls back, or fails fast. -/
theorem test_cfgCrc32hw_fail_fast :
    statusIs (exec (.cfgCrc32hw 2 2)
      { State.reset with params := { Config.params with hwcrcPresent := false, hwcrcPolicy := .failFast } }) 0x103
      = true := by decide
theorem test_cfgCrc32hw_query :
    resIs (exec (.query 0) (withCtx (crc32hwContext 0x04C11DB7 true) 0 0)) 0x1E2 = true := by decide
/-- FNV-E1, and R212's example. -/
theorem test_cfgFnv_no_8_bit_default : statusIs (runWord 0x00200003 State.reset) 0x101 = true := by decide
theorem test_cfgFnv_default :
    nextIs (runWord 0x00220103 State.reset) (fun t => t.contexts[1]? == some fnv32) = true := by decide
/-- FI-1 and FI-E1. -/
theorem test_cfgFnvinv_default :
    nextIs (runWord 0x00220204 State.reset) (fun t => t.contexts[2]? == some (fnvinv32 0x811C9DC5)) = true := by
  decide +kernel
theorem test_cfgFnvinv_even_prime :
    statusIs (runWord 0x00020004 { State.reset with a0 := 0x811C9DC5, a1 := 2 }) 0x102 = true := by decide
/-- FI-8: A0[63:8] is ignored; FI-E3. -/
theorem test_unstep : reg0Is (exec (.unstep 0) (withCtx (fnvinv32 0xE40C292C) 0xFFFFFFFFFFFFFF61 0)) 0x811C9DC5 = true := by
  decide +kernel
theorem test_unstep_kind_mismatch : statusIs (exec (.unstep 0) (withCtx fnv32 0x61 0)) 0x107 = true := by decide
/-- L2.6: "abc" at 32 bits, and the default at 16 bits. -/
theorem test_djb2_abc : reg0Is (exec (.updatei 0 2) (withCtx (djb2Context .w32 0x1505) 0x636261 0)) 0x0B885C8B = true := by
  decide +kernel
theorem test_djb2alt_abc :
    reg0Is (exec (.updatei 0 2) (withCtx (djb2altContext .w32 0x1505) 0x636261 0)) 0x0B873285 = true := by decide +kernel
theorem test_cfgDjb2_default_w16 : reg0Is (runWord 0x00210005 State.reset) 0x1505 = true := by decide
theorem test_cfgDjb2alt_no_8_bit_default : statusIs (runWord 0x00200006 State.reset) 0x101 = true := by decide
/-- CX-3, CX-4. -/
theorem test_loadreg_does_not_fit : statusIs (exec (.loadreg 0) (withCtx fnv32 0x100000000 0)) 0x101 = true := by decide
theorem test_loadreg_fits : reg0Is (exec (.loadreg 0) (withCtx fnv32 0xFFFFFFFF 0)) 0xFFFFFFFF = true := by decide
/-- CX-6 and R268's refusal of a NONE context. -/
theorem test_readreg : resIs (exec (.readreg 0) (withCtx (fnvinv32 0x811C9DC5) 0 0)) 0x811C9DC5 = true := by decide
theorem test_readreg_none : statusIs (exec (.readreg 1) (withCtx fnv32 0 0)) 0x106 = true := by decide
/-- R269: after cfg.crc c0, w32, refin, refout. -/
theorem test_query_iso : resIs (exec (.query 0) (withCtx (isoHdlc 0) 0 0)) 0xE1 = true := by decide
/-- CX-7. -/
theorem test_release :
    nextIs (exec (.release 0) (withCtx (isoHdlc 5) 0 0)) (fun t => t.contexts[0]? == some Context.empty) = true := by decide
/-- DE-11: BAD_CONTEXT before UNSUPPORTED_WIDTH. -/
theorem test_bad_context_first : statusIs (runWord 0x00040401 State.reset) 0x105 = true := by decide
/-- DE-1. -/
theorem test_illegal_command : statusIs (runWord 0x00000007 State.reset) 0x104 = true := by decide

/-! ### Functions -/

/-- CRC-C4. -/
theorem test_crc_table : crcTable 0x04C11DB7#32 0x80 = 0x690CE0EE#32 ∧ crcTable 0x1021#16 0xFF = 0x1EF0#16 := by
  decide +kernel
/-- CRC-8, refin only, over "a". -/
theorem test_crc8_refin : crcByte 0x07#8 true 0x00#8 0x61 = 0x9B#8 := by decide +kernel
/-- CRC-C5. -/
theorem test_reflect : reflect 0x9B63D02C#32 = 0x340BC6D9#32 := by decide +kernel
/-- MI-13. -/
theorem test_inverse_w64 : inverse 0x00000100000001B3#64 = 0xCE965057AFF6957B#64 := by decide +kernel

/-! ### The window and the host -/

/-- CAP of 95_test_vectors.md. -/
theorem test_cap : State.reset.cap = 0x00010301#32 := by decide
/-- R87: a 32-bit write of the high half of A1. -/
theorem test_high_half :
    nextIs (step { State.reset with a1 := 0x1111111122222222, pending := [.write .b32 0x14 0xABCD] })
      (fun t => t.a1 == 0x0000ABCD22222222) = true := by decide +kernel
/-- R88: a 16-bit access has no step. -/
theorem test_half_word_access_stops : faultIs (step { State.reset with pending := [.read .b16 0x08] }) .accessNotAdmitted
    = true := by decide
/-- R81: no byte at 0x2000. -/
theorem test_absent_dmem : faultIs (step { State.reset with pending := [.dmemWrite 0x2000 1] }) .dmemAbsent = true := by
  decide

/-! ### The assembler (R126 to R128) -/

theorem test_line_cfg_crc :
    parseLine "cfg.crc c0, w32, refin, refout ; iso" = some (.command (.cfgCrc 0 2 true true)) := by decide +kernel
theorem test_line_updatei : parseLine "updatei c3, 8" = some (.command (.updatei 3 7)) := by decide +kernel
theorem test_line_pseudo :
    parseLine "cfg.djb2 c0, w32, 0x1505" = some (.withOperands [(0, 0x1505)] (.cfgDjb2 0 2 false)) := by decide +kernel
theorem test_line_dmem : parseLine "dmem 0x1FFE, \"xy\"" = some (.dmem 0x1FFE [0x78, 0x79]) := by decide +kernel

/-! ### Witnesses: the premises of the statements can be met together -/

/-- StepRunsTheDecodedCommand: a state whose next event writes a decodable word to CMD, at 32 and at 64 bits. -/
theorem witness_cmd_write :
    (State.reset.withFetchWord 32 0x00220103).pending =
      .write .b32 (State.reset.withFetchWord 32 0x00220103).params.ifbase 0x00220103 :: [] ∧
    decode ((0x00220103 : Word64).extractLsb' 0 32) = .ok (.cfgFnv 1 2 true) := by decide

/-- StepRunsTheDecodedCommand, second clause: a word that does not decode. -/
theorem witness_cmd_write_illegal : ∀ j, decode ((0x00000007 : Word64).extractLsb' 0 32) ≠ .ok j := by
  intro j h
  exact absurd h (by simp [decode, opcodeOf, fieldOpc, field])

/-- IllegalWordRaisesIllegalCommand: both clauses. -/
theorem witness_illegal_opcode : ((0x00000007#32 : Word32).extractLsb' 0 8).toNat ∉
    [0x00, 0x01, 0x02, 0x03, 0x04, 0x05, 0x06, 0x08, 0x09, 0x0A, 0x0B, 0x0C, 0x0D, 0x0E, 0x0F, 0x10, 0x20] := by decide
theorem witness_reserved_bit : ∃ op : Opcode, op.code = ((0x00400009#32 : Word32).extractLsb' 0 8).toNat ∧
    0x00400009#32 &&& op.mask ≠ op.pattern := ⟨.update, by decide⟩

/-- EncodedAs, in every rule of a command: a word of the row that matches, and one with a reserved bit set that does not. -/
theorem witness_encoded : ∀ op : Opcode, op.pattern &&& op.mask = op.pattern ∧
    (op.pattern ||| 0x80000000#32).extractLsb' 0 8 = op.pattern.extractLsb' 0 8 ∧
    (op.pattern ||| 0x80000000#32) &&& op.mask ≠ op.pattern := by
  intro op
  cases op <;> decide

/-- HostWritesOfOperandRegisters and OtherHostWritesAreIgnored: the premises on the pending event. -/
theorem witness_register_write :
    ({ State.reset with pending := [.write .b32 0x1C 7] } : State).pending =
      .write .b32 (State.reset.params.ifbase + 0x1C) 7 :: [] ∧
    ({ State.reset with pending := [.write .b64 0x20 7] } : State).pending =
      .write .b64 (State.reset.params.ifbase + 0x20) 7 :: [] := by decide

/-- HostReadsReturnTheRegisters, the last reserved offsets. -/
theorem witness_reserved_read :
    ({ State.reset with pending := [.read .b32 0xFC] } : State).pending =
      .read .b32 (State.reset.params.ifbase + 0xFC) :: [] ∧ 0x34 ≤ 0xFC ∧ 0xFC < 256 ∧ 0xFC % 4 = 0 := by decide
theorem witness_reserved_read64 : 0x38 ≤ 0xF8 ∧ 0xF8 < 256 ∧ 0xF8 % 8 = 0 := by decide

/-- OtherHostWritesAreIgnored: the first and the last offset. -/
theorem witness_ignored_write : 0x20 ≤ 0x20 ∧ 0x20 < 256 ∧ 0x20 % 4 = 0 ∧ 0x20 ≤ 0xF8 ∧ 0xF8 < 256 ∧ 0xF8 % 8 = 0 := by
  decide

/-- OnlyAdmittedAccessesStep: an access inside and aligned, one outside, one misaligned. -/
theorem witness_admitted_access :
    (admitted Config.params .b64 0xF8 = some 0xF8) ∧ (admitted Config.params .b64 0x100 = none) ∧
    (admitted Config.params .b32 0x02 = none) := by decide

/-- DmemStoresAndIdling: bytes that exist at both ends of DMEM_VALID, and the first beyond. -/
theorem witness_dmem_valid :
    dmemValid Config.params 0x1000 = true ∧ dmemValid Config.params 0x1FFF = true ∧
    dmemValid Config.params 0x2000 = false := by decide

/-- ResetEventGivesResetValues. -/
theorem witness_reset_event : ({ State.reset with pending := [.reset] } : State).pending = .reset :: [] := rfl

/-- StepKeepsTheInvariant, and the hypotheses of ResetMeetsTheInvariant. -/
theorem reset_inv : State.reset.Inv := by decide
theorem witness_inv_step : State.reset.Inv ∧ nextIs (step State.reset) (fun _ => true) = true := by decide
theorem witness_legal : LegalNctx 256 ∧ LegalNctx 1 ∧ Config.params.Legal := by decide

/-- ErrSeenIsSticky: ERRSEEN set, an event that is no reset, a step. -/
theorem witness_err_seen :
    let s := ({ State.reset with status := 0x102 } : State).withFetchWord 32 0
    nextIs (step s) (fun _ => true) = true ∧ statusErrSeen s.status = true ∧ s.pending.head? ≠ some .reset := by decide

/-- BadContextComesFirst: CTX = NCTX, the first that is refused. -/
theorem witness_bad_context : (Instr.query 4).ctx? = some 4 ∧ State.reset.nctx ≤ 4 := by decide

/-- ErrorsOnlyFromTheirCommands: a command that raises an error. -/
theorem witness_error_raised :
    nextIs (exec (.modinv 4) State.reset) (fun t => statusErr t.status == CmdError.code .unsupportedWidth) = true := by
  decide

/-- The rules of commands on a context: NONE, a stream kind, FNVINV, all there. -/
theorem witness_context_kinds :
    (withCtx fnv32 0 0).contexts[1]? = some Context.empty ∧ Context.empty.kind = .noEngine ∧
    (withCtx fnv32 0 0).contexts[0]? = some fnv32 ∧ Kind.stream? fnv32.kind = some .fnv ∧
    (withCtx (fnvinv32 0) 0 0).contexts[0]? = some (fnvinv32 0) ∧ (fnvinv32 0).kind = .fnvinv ∧
    (withCtx fnv32 0 0).nctx ≤ 4 ∧ 3 < (withCtx fnv32 0 0).nctx := by decide

/-- UpdateRule: a span that is admitted, and one that is not (SP-1, SP-3). -/
theorem witness_span_admitted : SpanAdmitted Config.params 0x1FFE 2 := by
  refine .inr ⟨by decide, fun i hi => ?_⟩
  have : i = 0 ∨ i = 1 := by omega
  rcases this with rfl | rfl <;> decide
theorem witness_span_not_admitted : ¬ SpanAdmitted Config.params 0xFFFFFFFFFFFFFFFF 2 := by
  rintro (h | ⟨h, -⟩)
  · exact absurd h (by decide)
  · exact absurd h (by decide)

/-- LoadregRule: the first value that does not fit 32 bits, and the last that does. -/
theorem witness_loadreg_fit :
    2 ^ fnv32.width.bits ≤ (0x100000000 : Word64).toNat ∧ (0xFFFFFFFF : Word64).toNat < 2 ^ fnv32.width.bits := by decide

/-- The CFG_* rules and ModinvRule: a width code and its width, at both ends; codes without a width. -/
theorem witness_width_codes : Width.w8.bits = 8 * 2 ^ 0 ∧ Width.w64.bits = 8 * 2 ^ 3 ∧ 4 ≤ 7 := by decide
theorem witness_operands_fit :
    (0xFF : Word64).toNat < 2 ^ Width.w8.bits ∧ 2 ^ Width.w8.bits ≤ (0x100 : Word64).toNat ∧
    (0xFF : Word64).toNat % 2 = 1 ∧ (0xFE : Word64).toNat % 2 = 0 := by decide

/-- CfgCrc32hwRule: its three outcomes after the width check. -/
theorem witness_paths :
    selectPath Config.params = .ok true ∧
    selectPath { Config.params with hwcrcPresent := false } = .ok false ∧
    selectPath { Config.params with hwcrcPresent := false, hwcrcPolicy := .failFast } = .error .unsupportedHardware := by
  decide

/-- CfgFnvRule and CfgFnvinvRule: default constants with an odd prime; operands with an even one. -/
theorem witness_fnv_operands :
    fnvDefaults .w64 = some (0xCBF29CE484222325, 0x00000100000001B3) ∧
    (0x00000100000001B3 : Word64).toNat % 2 = 1 ∧ (2 : Word64).toNat % 2 = 0 ∧ (2 : Word64).toNat < 2 ^ Width.w8.bits := by
  decide

/-- CfgDjb2Rule and CfgDjb2altRule. -/
theorem witness_djb2_operands : Width.w16.bits ≠ 8 ∧ (0x1505 : Word64) = 0x1505 ∧ (5 : Word64).toNat < 2 ^ Width.w8.bits := by
  decide

/-- InverseProperties: an odd value that fits, and a smaller width. -/
theorem witness_inverse : (0x93 : Word64).toNat < 2 ^ Width.w16.bits ∧ (0x93 : Word64).toNat % 2 = 1 ∧
    Width.w8.bits < Width.w16.bits := by decide

/-- The arithmetic and the equal forms of the CRC: the least width. -/
theorem witness_least_width : 8 ≤ 8 ∧ 7 < 8 := by decide

/-- HardwareEngineEqualsGenericEngine: the two contexts after configuration. -/
theorem witness_hardware_pair :
    let x := crc32hwContext 0x04C11DB7 true
    let y := isoHdlc 0xFFFFFFFF
    x.kind = .crc32hw ∧ y.kind = .crc ∧ y.width = .w32 ∧ y.poly = x.poly ∧ y.refin = true ∧ y.refout = true ∧
    y.xorout = 0xFFFFFFFF ∧ x.reg = (reflect (y.reg.setWidth 32 : BitVec 32)).setWidth 64 := by decide +kernel

/-- HardwarePathsAgree: a message one byte longer than a chunk. -/
theorem witness_chunks : 8 * 1 ≤ ([0x31, 0x32, 0x33, 0x34, 0x35, 0x36, 0x37, 0x38, 0x39] : List Byte).length := by decide

/-- FnvInverseRoundTrip. -/
theorem witness_odd_prime : (0x01000193#32).toNat % 2 = 1 := by decide

/-- UnstepWalksAMessageBack: FNV over "a", and the FNVINV context loaded with its register (FI-4). -/
theorem witness_walk_back :
    let s := withCtx (fnvinv32 0xE40C292C) 0 0
    s.contexts[0]? = some (fnvinv32 0xE40C292C) ∧ fnv32.width = (fnvinv32 0).width ∧ fnv32.prime = (fnvinv32 0).prime ∧
    fnv32.reg.toNat < 2 ^ fnv32.width.bits ∧ (fnvinv32 0).prime.toNat % 2 = 1 ∧
    (fnvinv32 0).pinv = inverseAt .w32 (fnvinv32 0).prime ∧
    (fnvinv32 0xE40C292C).reg = ([0x61] : List Byte).foldl (stepByte .fnv fnv32) fnv32.reg := by decide +kernel

/-- ChunkInvariance: a span and an immediate, both admitted. -/
theorem witness_deliveries : ∀ d ∈ [Delivery.span 0x1FFE 2, Delivery.imm 0x61 0], d.Admitted Config.params := by
  intro d hd
  rcases List.mem_cons.mp hd with rfl | hd
  · exact witness_span_admitted
  · rcases List.mem_cons.mp hd with rfl | hd
    · trivial
    · cases hd

/-- CommandFrame and ResIsWrittenByFourCommands: commands of each sort. -/
theorem witness_frames :
    nextIs (exec (.update 0) (withCtx fnv32 0 0)) (fun _ => true) = true ∧ (Instr.update 0).ctx? ≠ some 1 ∧
    returnsValue (.update 0) = false ∧ returnsValue (.final 0) = true ∧
    nextIs (exec (.final 1) (withCtx fnv32 0 0)) (fun t => statusErr t.status != 0) = true := by decide

/-- ConfigurationIsImmutable: a step, and a context that stands before it. -/
theorem witness_configuration :
    let s := (withCtx fnv32 0 0).withFetchWord 32 0x00000010
    nextIs (step s) (fun _ => true) = true ∧ s.contexts[0]? = some fnv32 := by decide

/-- ContextsAreIndependent: two states that differ in context 1 only. -/
theorem witness_independent :
    let s := withCtx fnv32 0 0
    let s' := { s with contexts := [fnv32, isoHdlc 7, Context.empty, Context.empty] }
    s' = { s with contexts := s'.contexts } ∧ s'.contexts.length = s.contexts.length ∧
    s'.contexts[0]? = s.contexts[0]? ∧ s' ≠ s ∧ (Instr.final 0).ctx? = some 0 := by decide

/-- ListingLinesRunTheirCommands: a command line; loads at both ends of k and one register loaded twice, with an event
after the line; `li`, `cmd` and `rd`; the bytes up to the end of DMEM. -/
theorem witness_listing : (Instr.cfgCrc 0 2 true true).WellFormed ∧
    ({ State.reset with pending := AsmLine.events Config.params (.command (.cfgCrc 0 2 true true)) } : State).pending =
      AsmLine.events State.reset.params (.command (.cfgCrc 0 2 true true)) ++ [] := by decide
theorem witness_loads :
    let loads : List (Nat × Word64) := [(0, 5), (2, 7), (0, 9)]
    let s := { State.reset with
      a1 := 3, pending := AsmLine.events Config.params (.withOperands loads (.modinv 3)) ++ [.reset] }
    (∀ l ∈ loads, l.1 ≤ 2) ∧ (Instr.modinv 3).WellFormed ∧
    s.pending = AsmLine.events s.params (.withOperands loads (.modinv 3)) ++ [.reset] ∧
    nextIs (Sys2Proof.core.run 4 s)
      (fun t => t.a0 == 9 && t.a1 == 3 && t.a2 == 7 && t.res == 0x8E38E38E38E38E39 && t.pending == [.reset]) = true := by
  decide +kernel
theorem witness_host_lines : ∀ l ∈ [AsmLine.blank, .li 2 7, .cmd 7, .rd .status, .dmem 0x1FFF [1]],
    ({ State.reset with pending := AsmLine.events Config.params l ++ [.reset] } : State).pending =
      AsmLine.events State.reset.params l ++ [.reset] := fun _ _ => rfl
theorem witness_dmem_line : ∀ j, j < ([1] : List Byte).length → dmemValid State.reset.params (0x1FFF + j) = true := by
  decide

/-- PseudoInstructionsExpand: operands that can be read. -/
theorem witness_pseudo : parseCtx "c255".toList = some 255 ∧ parseWidth "wc7".toList = some 7 ∧
    parseWord 64 "0xFFFFFFFFFFFFFFFF".toList = some 0xFFFFFFFFFFFFFFFF ∧ parseWord 8 "255".toList = some 255 ∧
    parseNumber "8".toList = some 8 ∧ parseReflect ["refout".toList] = some (false, true) ∧ parseReflect [] = some (false, false) := by
  decide +kernel

end Sys2Proof.Tests
end

section
/-! Bit reflection (spec/00_scope.md R15). -/

namespace Sys2Proof.Machine

/-- R15 read from the top: bit `i` of the reflection is the bit of `v` at place `i` from its most significant end. -/
@[simp] theorem getLsbD_reflect {N : Nat} (v : BitVec N) (i : Nat) : (reflect v).getLsbD i = v.getMsbD i :=
  BitVec.getLsbD_reverse

/-- Settles O43: bit `N - 1 - i` of the reflection is bit `N - 1 - i` of `v` counted from the top, which is bit `i`. -/
theorem reflectReversesTheBits : Obligations.ReflectReversesTheBits := by
  intro N v i hi
  calc (reflect v).getLsbD (N - 1 - i)
      = v.getMsbD (N - 1 - i) := getLsbD_reflect v _
    _ = v.getLsbD i := by rw [BitVec.getLsbD_eq_getMsbD, decide_eq_true hi, Bool.true_and]

end Sys2Proof.Machine
end

section
/-! What one step can do, and what a command leaves of the contexts (spec/10_state.md R31, R34, R40, R49). -/

namespace Sys2Proof.Machine

open Sys2Proof.Certificates

/-! ### The step -/

/-- Everything a step can lead to: the host event that took effect, and the state it leaves (R31, R32, R94). -/
inductive StepEffect (s : State) : State → Prop where
  /-- No event is left (log 5). -/
  | idle (hp : s.pending = []) : StepEffect s s
  /-- A read of the window is recorded. -/
  | read {size : AccessSize} {addr : Nat} {rest : List HostEvent} (hp : s.pending = .read size addr :: rest)
      (v : Word64) : StepEffect s (State.logRead { s with pending := rest } v)
  /-- A write above CMD reaches the operand registers only, or is ignored (R35 to R39). -/
  | operands {size : AccessSize} {addr : Nat} {w : Word64} {rest : List HostEvent}
      (hp : s.pending = .write size addr w :: rest) (x y z : Word64) :
      StepEffect s { s with pending := rest, a0 := x, a1 := y, a2 := z }
  /-- A write of CMD runs the command word (R34). -/
  | command {size : AccessSize} {w : Word64} {rest : List HostEvent} {t : State}
      (hp : s.pending = .write size s.params.ifbase w :: rest)
      (hrun : runCommand (lowHalf w) { s with pending := rest } = .next t) : StepEffect s t
  /-- The host stores a byte of DMEM that exists (R81). -/
  | dmem {addr : Nat} {b : Byte} {rest : List HostEvent} (hp : s.pending = .dmemWrite addr b :: rest)
      (hv : dmemValid s.params addr = true) :
      StepEffect s { s with pending := rest, dmem := Memory.store s.dmem addr b }
  /-- The reset event (R340). -/
  | reset {rest : List HostEvent} (hp : s.pending = .reset :: rest) :
      StepEffect s (State.afterReset { s with pending := rest })

/-- A 32-bit store above CMD changes the operand registers only. -/
theorem store32_operands {off : Nat} (hoff : off ≠ 0) (v : Word32) (s : State) :
    ∃ x y z, store32 off v s = .next { s with a0 := x, a1 := y, a2 := z } := by
  unfold store32
  split
  · exact absurd rfl hoff
  all_goals exact ⟨_, _, _, rfl⟩

/-- So does a 64-bit store above CMD. -/
theorem store64_operands {off : Nat} (hoff : off ≠ 0) (v : Word64) (s : State) :
    ∃ x y z, store64 off v s = .next { s with a0 := x, a1 := y, a2 := z } := by
  obtain ⟨x, y, z, hlow⟩ := store32_operands hoff (lowHalf v) s
  obtain ⟨x', y', z', hhigh⟩ :=
    store32_operands (Nat.succ_ne_zero (off + 3)) (highHalf v) { s with a0 := x, a1 := y, a2 := z }
  exact ⟨x', y', z', by simp only [store64, hlow, hhigh]⟩

/-- A 64-bit store at offset 0 runs the command word in its low half; its high half goes to the reserved offset 4. -/
theorem store64_zero (v : Word64) (s : State) : store64 0 v s = runCommand (lowHalf v) s := by
  simp only [store64, store32]
  cases runCommand (lowHalf v) s <;> rfl

/-- The admitted offset places the access in the window. -/
theorem eq_add_of_admitted {p : Params} {size : AccessSize} {addr off : Nat} (h : admitted p size addr = some off) :
    addr = p.ifbase + off := by
  unfold admitted at h
  split at h
  · cases h
  · cases size
    case b8 | b16 => cases h
    case b32 | b64 =>
      obtain ⟨-, hoff⟩ := Option.ite_none_right_eq_some.mp h
      cases hoff
      omega

/-- A write that takes effect is of the operand registers, or of CMD. -/
theorem hostWrite_cases {size : AccessSize} {addr : Nat} {v : Word64} {s t : State}
    (h : hostWrite size addr v s = .next t) :
    (∃ x y z, t = { s with a0 := x, a1 := y, a2 := z }) ∨
      (addr = s.params.ifbase ∧ runCommand (lowHalf v) s = .next t) := by
  unfold hostWrite at h
  split at h
  · cases h
  · rename_i off hadm
    have haddr := eq_add_of_admitted hadm
    by_cases hoff : off = 0
    · subst hoff
      cases size
      case b8 | b16 => cases h
      case b32 => exact .inr ⟨haddr, h⟩
      case b64 => exact .inr ⟨haddr, store64_zero v s ▸ h⟩
    · obtain ⟨x, y, z, h32⟩ := store32_operands hoff (lowHalf v) s
      obtain ⟨x', y', z', h64⟩ := store64_operands hoff v s
      cases size
      case b8 | b16 => cases h
      case b32 => exact .inl ⟨x, y, z, by simpa [h32] using h.symm⟩
      case b64 => exact .inl ⟨x', y', z', by simpa [h64] using h.symm⟩

/-- A read that takes effect is recorded, and does nothing else (R90). -/
theorem hostRead_cases {size : AccessSize} {addr : Nat} {s t : State} (h : hostRead size addr s = .next t) :
    ∃ v, t = s.logRead v := by
  unfold hostRead at h
  split at h
  · cases h
  · cases size
    case b8 | b16 => cases h
    case b32 | b64 => exact ⟨_, by cases h; rfl⟩

/-- A DMEM store that takes effect is of a byte that exists. -/
theorem hostDmemWrite_cases {addr : Nat} {b : Byte} {s t : State} (h : hostDmemWrite addr b s = .next t) :
    dmemValid s.params addr = true ∧ t = { s with dmem := Memory.store s.dmem addr b } := by
  unfold hostDmemWrite at h
  split at h
  · exact ⟨‹_›, by cases h; rfl⟩
  · cases h

/-- What a step's next state can be. -/
theorem step_cases {s t : State} (h : step s = .next t) : StepEffect s t := by
  unfold step advance at h
  split at h
  · cases h
    exact .idle ‹_›
  · rename_i e rest hp
    cases e with
    | read size addr =>
      obtain ⟨v, rfl⟩ := hostRead_cases h
      exact .read hp v
    | write size addr w =>
      rcases hostWrite_cases h with ⟨x, y, z, rfl⟩ | ⟨rfl, hrun⟩
      · exact .operands hp x y z
      · exact .command hp hrun
    | dmemWrite addr b =>
      obtain ⟨hv, rfl⟩ := hostDmemWrite_cases h
      exact .dmem hp hv
    | reset =>
      cases h
      exact .reset hp

/-- A command word raises ILLEGAL_COMMAND, or runs the command it decodes to (R124). -/
theorem runCommand_cases {v : Word32} {s t : State} (h : runCommand v s = .next t) :
    t = s.raise .illegalCommand ∨ ∃ i, decode v = .ok i ∧ exec i s = .next t := by
  unfold runCommand at h
  split at h
  · exact .inl (by simpa using h.symm)
  · exact .inr ⟨_, ‹_›, h⟩

/-! ### The contexts under a command -/

/-- A CFG_* command and RELEASE configure the context they name. -/
theorem ctx?_of_configures {i : Instr} {c : Nat} (h : configures i = some c) : i.ctx? = some c := by
  cases i
  case cfgCrc | cfgCrc32hw | cfgFnv | cfgFnvinv | cfgDjb2 | cfgDjb2alt | release => exact h
  all_goals cases h

/-- A command leaves every context it does not name (R40). -/
theorem exec_context_of_ne {i : Instr} {s t : State} {c : Nat} (h : exec i s = .next t) (hc : i.ctx? ≠ some c) :
    t.contexts[c]? = s.contexts[c]? := by
  rcases exec_cases h with ⟨e, rfl⟩ | ⟨u, rfl, rfl | ⟨v, rfl⟩ | ⟨d, x, hd, -, rfl⟩⟩
  · rfl
  · rfl
  · rfl
  · have hne : d ≠ c := fun hdc => hc (hdc ▸ hd)
    simp [List.getElem?_set_ne hne]

/-- What a command that completes can do to the contexts when it configures none: at most write the REG of one. -/
inductive RegEffect (s : State) : State → Prop where
  | same : RegEffect s s
  | res (v : Word64) : RegEffect s (s.setRes v)
  | reg {c : Nat} {x : Context} (hx : s.contexts[c]? = some x) (v : Word64) : RegEffect s (s.setReg c x v)

/-- REG apart, every context is as before. -/
theorem RegEffect.context {s u : State} (h : RegEffect s u) {c : Nat} {x : Context} (hx : s.contexts[c]? = some x) :
    ∃ r : Word64, u.contexts[c]? = some { x with reg := r } := by
  cases h with
  | same => exact ⟨x.reg, hx⟩
  | res v => exact ⟨x.reg, hx⟩
  | @reg d y hy v =>
    by_cases hdc : d = c
    · subst hdc
      obtain rfl : x = y := Option.some.inj (hx.symm.trans hy)
      exact ⟨v, List.getElem?_set_self (State.lt_of_get hx)⟩
    · exact ⟨x.reg, (List.getElem?_set_ne hdc).trans hx⟩

/-- A command other than CFG_* and RELEASE raises an error, or writes no more than RES or one REG (R49). -/
theorem exec_regEffect {i : Instr} {s t : State} (hi : configures i = none) (h : exec i s = .next t) :
    (∃ e, t = s.raise e) ∨ ∃ u, t = u.complete ∧ RegEffect s u := by
  obtain ⟨r, hr, hreg⟩ : ∃ r, exec i s = conclude s r ∧ ∀ u, r = .ok u → RegEffect s u := by
    cases i
    case cfgCrc | cfgCrc32hw | cfgFnv | cfgFnvinv | cfgDjb2 | cfgDjb2alt | release => cases hi
    case nop => exact ⟨.ok s, rfl, fun u hu => by cases hu; exact .same⟩
    all_goals refine ⟨_, rfl, fun u hu => ?_⟩
    case final | readreg | query =>
      split at hu <;> cases hu
      exact .res _
    case modinv =>
      split at hu
      · cases hu
      · split at hu
        · cases hu
        · split at hu <;> cases hu
          exact .res _
    case reset | updatei | unstep =>
      split at hu <;> cases hu
      exact .reg (State.checkContext_eq_ok ‹_›).1 _
    case update | loadreg =>
      split at hu
      · cases hu
      · split at hu <;> cases hu
        exact .reg (State.checkContext_eq_ok ‹_›).1 _
  rcases conclude_cases (hr ▸ h) with ⟨e, -, rfl⟩ | ⟨u, hru, rfl⟩
  · exact .inl ⟨e, rfl⟩
  · exact .inr ⟨u, rfl, hreg u hru⟩

/-- A command that does not configure context `c` leaves all of it but REG (R49). -/
theorem exec_keeps_configuration {i : Instr} {s t : State} {c : Nat} {x : Context} (h : exec i s = .next t)
    (hi : configures i ≠ some c) (hx : s.contexts[c]? = some x) :
    ∃ r : Word64, t.contexts[c]? = some { x with reg := r } := by
  cases hcfg : configures i with
  | some d =>
    have hctx : i.ctx? ≠ some c := by rwa [ctx?_of_configures hcfg, ← hcfg]
    exact ⟨x.reg, (exec_context_of_ne h hctx).trans hx⟩
  | none =>
    rcases exec_regEffect hcfg h with ⟨e, rfl⟩ | ⟨u, rfl, hu⟩
    · exact ⟨x.reg, hx⟩
    · exact hu.context hx

/-- Settles O57: of the things a step can do, a reset and a command that configures `c` are the two exceptions; every
other event leaves the contexts, and every other command leaves all of context `c` but REG. -/
theorem configurationIsImmutable : Obligations.ConfigurationIsImmutable := by
  intro s t c x hstep hx
  cases step_cases hstep with
  | idle | read | operands | dmem => exact .inl ⟨x.reg, hx⟩
  | reset hp => exact .inr (.inl (by simp [hp]))
  | @command size w rest _ hp hrun =>
    rcases runCommand_cases hrun with rfl | ⟨i, hdec, hexec⟩
    · exact .inl ⟨x.reg, hx⟩
    · by_cases hi : configures i = some c
      · exact .inr (.inr ⟨size, w, i, by simp [hp], hdec, hi⟩)
      · exact .inl (exec_keeps_configuration hexec hi hx)

end Sys2Proof.Machine
end

section
/-! CAP and the parameters it shows (spec/10_state.md R36). -/

namespace Sys2Proof.Machine

/-- CAP is a function of the parameters and NCTX. -/
theorem State.cap_congr {s t : State} (hp : t.params = s.params) (hn : t.nctx = s.nctx) : t.cap = s.cap := by
  simp only [State.cap, hp, hn]

/-- No command changes the parameters or the number of contexts. -/
theorem exec_keeps_block {i : Instr} {s t : State} (h : exec i s = .next t) :
    t.params = s.params ∧ t.nctx = s.nctx := by
  rcases exec_cases h with ⟨e, rfl⟩ | ⟨u, rfl, rfl | ⟨v, rfl⟩ | ⟨d, x, -, -, rfl⟩⟩ <;> simp

/-- No step changes the parameters or the number of contexts (R10, R40). -/
theorem step_keeps_block {s t : State} (h : step s = .next t) : t.params = s.params ∧ t.nctx = s.nctx := by
  cases step_cases h with
  | idle | read | operands | dmem => exact ⟨rfl, rfl⟩
  | reset => exact ⟨rfl, State.afterReset_nctx _⟩
  | @command _ _ rest _ _ hrun =>
    rcases runCommand_cases hrun with rfl | ⟨i, -, hexec⟩
    · exact ⟨rfl, rfl⟩
    · exact exec_keeps_block (s := { s with pending := rest }) hexec

/-- Appending in exact arithmetic: the left part counts from the right part's end. -/
theorem toNat_append_eq_add {m n : Nat} (x : BitVec m) (y : BitVec n) : (x ++ y).toNat = x.toNat * 2 ^ n + y.toNat := by
  rw [BitVec.toNat_append, ← Nat.shiftLeft_add_eq_or_of_lt y.isLt, Nat.shiftLeft_eq]

/-- CAP as a sum: each field at its place, VERSION 1, every other bit zero (R36). -/
theorem State.toNat_cap (s : State) :
    s.cap.toNat = s.params.hwcrcPresent.toNat + (HwPolicy.bit s.params.hwcrcPolicy).toNat * 2 ^ 1
      + (HwPoly.select s.params.hwcrcPoly).toNat * 2 ^ 2 + (s.nctx - 1) % 2 ^ 8 * 2 ^ 8 + 2 ^ 16 := by
  unfold State.cap
  iterate 6 rw [toNat_append_eq_add]
  simp only [BitVec.toNat_ofBool, BitVec.toNat_ofNat]
  omega

/-- A bit of a word, from the word's value. -/
theorem getLsbD_of_div_mod {v : Word32} {k : Nat} {b : Bool} (h : v.toNat / 2 ^ k % 2 = b.toNat) :
    v.getLsbD k = b := by
  rw [getLsbD_eq_div_mod, h]
  cases b <;> rfl

/-- A field of a word, from the word's value. -/
theorem extractLsb'_of_div_mod {v : Word32} {lo len n : Nat}
    (h : v.toNat / 2 ^ lo % 2 ^ len = n % 2 ^ len) : v.extractLsb' lo len = BitVec.ofNat len n :=
  BitVec.eq_of_toNat_eq (((field_eq_div_mod v lo len).trans h).trans (BitVec.toNat_ofNat n len).symm)

/-- CAP's fields by place (R36). -/
theorem State.cap_fields (s : State) :
    s.cap.getLsbD 0 = s.params.hwcrcPresent ∧ s.cap.getLsbD 1 = HwPolicy.bit s.params.hwcrcPolicy ∧
    s.cap.getLsbD 2 = HwPoly.select s.params.hwcrcPoly ∧ s.cap.extractLsb' 3 5 = 0#5 ∧
    s.cap.extractLsb' 8 8 = BitVec.ofNat 8 (s.nctx - 1) ∧ s.cap.extractLsb' 16 8 = 1#8 ∧
    s.cap.extractLsb' 24 8 = 0#8 := by
  have hcap := State.toNat_cap s
  have hpresent := s.params.hwcrcPresent.toNat_lt
  have hpolicy := (HwPolicy.bit s.params.hwcrcPolicy).toNat_lt
  have hpoly := (HwPoly.select s.params.hwcrcPoly).toNat_lt
  refine ⟨getLsbD_of_div_mod ?_, getLsbD_of_div_mod ?_, getLsbD_of_div_mod ?_, extractLsb'_of_div_mod ?_,
    extractLsb'_of_div_mod ?_, extractLsb'_of_div_mod ?_, extractLsb'_of_div_mod ?_⟩
  all_goals
    rw [hcap]
    omega

/-- The policy bit is set for FAIL_FAST (R36). -/
theorem HwPolicy.bit_eq (p : HwPolicy) : HwPolicy.bit p = decide (p = .failFast) := by cases p <;> rfl

/-- The polynomial select is set for 0x1EDC6F41 (R36). -/
theorem HwPoly.select_eq (p : HwPoly) : HwPoly.select p = decide (p = .p1EDC6F41) := by cases p <;> rfl

/-- Settles O59: CAP's fields are the parameters, and no step changes what CAP is made of. -/
theorem capIsFixed : Obligations.CapIsFixed := by
  refine ⟨fun s => ?_, fun s t hstep => ?_⟩
  · obtain ⟨hpresent, hpolicy, hpoly, hzero, hnctx, hversion, htop⟩ := State.cap_fields s
    refine ⟨hpresent, hpolicy.trans (HwPolicy.bit_eq _), hpoly.trans (HwPoly.select_eq _), hzero,
      fun ⟨hpos, hle⟩ => ?_, hversion, htop⟩
    rw [hnctx, BitVec.toNat_ofNat]
    exact Nat.mod_eq_of_lt (by omega)
  · obtain ⟨hparams, hnctx⟩ := step_keeps_block hstep
    exact ⟨State.cap_congr hparams hnctx, hparams, hnctx⟩

end Sys2Proof.Machine
end

section
/-! Which words are commands, and what the others do (spec/30_encoding.md R120, R121, R124). -/

namespace Sys2Proof

/-- The rows' OPC values are distinct (R120). -/
theorem Opcode.code_injective {op op' : Opcode} (h : op.code = op'.code) : op = op' :=
  Option.some.inj (by rw [← opcodeOf_code op, h, opcodeOf_code])

/-- Every row fixes all of OPC (R120). -/
theorem Opcode.extractLsb'_mask (op : Opcode) : op.mask.extractLsb' 0 8 = BitVec.allOnes 8 := by cases op <;> rfl

/-- The fixed bits of a row hold its OPC (R120). -/
@[simp] theorem Opcode.fieldOpc_pattern (op : Opcode) : fieldOpc op.pattern = op.code := by cases op <;> rfl

/-- A row's mask leaves OPC as it is. -/
@[simp] theorem Opcode.fieldOpc_and_mask (op : Opcode) (v : Word32) : fieldOpc (v &&& op.mask) = fieldOpc v := by
  simp only [fieldOpc, field, BitVec.extractLsb'_and, op.extractLsb'_mask, BitVec.and_allOnes]

/-- A word that matches a row has the row's OPC. -/
theorem Opcode.code_eq_of_match {op : Opcode} {v : Word32} (h : v &&& op.mask = op.pattern) : op.code = fieldOpc v := by
  rw [← op.fieldOpc_pattern, ← h, op.fieldOpc_and_mask]

/-- The command made from a row's fields belongs to that row. -/
@[simp] theorem opcode_assembleFields (op : Opcode) (v : Word32) : (assembleFields op v).opcode = op := by
  cases op <;> rfl

/-- The words that decode are those that match a row, and they decode to its command (R124). -/
theorem decode_eq_ok_iff {v : Word32} {i : Instr} :
    decode v = .ok i ↔ ∃ op : Opcode, v &&& op.mask = op.pattern ∧ assembleFields op v = i := by
  constructor
  · intro h
    unfold decode at h
    split at h
    · cases h
    · rename_i op _
      split at h
      · exact ⟨op, ‹_›, Except.ok.inj h⟩
      · cases h
  · rintro ⟨op, hmatch, rfl⟩
    have hrow : opcodeOf (fieldOpc v) = some op := by rw [← Opcode.code_eq_of_match hmatch, opcodeOf_code]
    simp only [decode, hrow, if_pos hmatch]

/-- R120 for any row: only the row's own match makes a word the row's command. -/
theorem decode_eq_ok_assembleFields_iff (op : Opcode) (v : Word32) :
    decode v = .ok (assembleFields op v) ↔ v &&& op.mask = op.pattern := by
  rw [decode_eq_ok_iff]
  constructor
  · rintro ⟨op', hmatch, hcmd⟩
    have hop : op' = op := by simpa using congrArg Instr.opcode hcmd
    exact hop ▸ hmatch
  · exact fun hmatch => ⟨op, hmatch, rfl⟩

/-- Settles O3: each clause is the match rule at one row, whose mask and pattern are the numbers of R120. -/
theorem wordIsCommandIffMaskMatches : Obligations.WordIsCommandIffMaskMatches := fun v =>
  have row (op : Opcode) := decode_eq_ok_assembleFields_iff op v
  ⟨row .nop, row .cfgCrc, row .cfgCrc32hw, row .cfgFnv, row .cfgFnvinv, row .cfgDjb2, row .cfgDjb2alt, row .reset,
    row .update, row .updatei, row .final, row .unstep, row .loadreg, row .readreg, row .query, row .release,
    row .modinv⟩

namespace Machine

open Sys2Proof.Certificates

/-- Raising an error leaves the state the statements describe: its code in ERR, ERRSEEN set (R301). -/
theorem State.raise_eq_errorState (s : State) (e : CmdError) : s.raise e = errorState s (e.code.setWidth 32) := by
  have hstatus : statusFail s.status e = (s.status &&& 0xFFFFFFF0#32) ||| 0x100#32 ||| e.code.setWidth 32 := by
    simp only [statusFail, statusWithErr, BitVec.or_assoc, BitVec.or_comm (e.code.setWidth 32)]
  simp only [State.raise, errorState, hstatus]

/-- A word that decodes to no command raises ILLEGAL_COMMAND (R121, R124). -/
theorem runCommand_of_not_decodes {v : Word32} (h : ∀ i, decode v ≠ .ok i) (s : State) :
    runCommand v s = .next (errorState s 4) := by
  unfold runCommand
  split
  · rw [conclude_error, State.raise_eq_errorState]
    rfl
  · exact absurd ‹_› (h _)

/-- Settles O4: a word that decodes matches a row, so its OPC is that row's, which is listed and is no other row's. -/
theorem illegalWordRaisesIllegalCommand : Obligations.IllegalWordRaisesIllegalCommand := by
  intro v s hillegal
  refine runCommand_of_not_decodes (fun i hdec => ?_) s
  obtain ⟨op, hmatch, -⟩ := decode_eq_ok_iff.mp hdec
  have hcode : op.code = (v.extractLsb' 0 8).toNat := Opcode.code_eq_of_match hmatch
  rcases hillegal with hunlisted | ⟨op', hcode', hmismatch⟩
  · rw [← hcode] at hunlisted
    exact hunlisted (by cases op <;> decide)
  · exact hmismatch (Opcode.code_injective (hcode'.trans hcode.symm) ▸ hmatch)

end Machine

end Sys2Proof
end

section
/-! The command words of a row, in the words of the rules' statements (spec/30_encoding.md R120, R121), and a command's
completion as a state (spec/60_exceptions.md R302). -/

namespace Sys2Proof.Machine

open Sys2Proof.Certificates

/-- Every row encodes its command: the match rule, and ILLEGAL_COMMAND for the other words with the row's OPC. -/
theorem encodedAs_row (op : Opcode) : EncodedAs op.mask op.pattern (assembleFields op) := by
  refine fun v => ⟨(decode_eq_ok_assembleFields_iff op v).mpr, fun hopc hmismatch s => ?_⟩
  have hcode : op.code = (v.extractLsb' 0 8).toNat := by
    rw [hopc, ← op.fieldOpc_pattern]
    rfl
  exact illegalWordRaisesIllegalCommand v s (.inr ⟨op, hcode, hmismatch⟩)

/-- Completing leaves the state the statements describe: ERR 0, the rest of STATUS as it was (R302). -/
theorem State.complete_eq_doneState (s : State) : s.complete = doneState s := by
  simp only [State.complete, doneState, statusOk_eq]

end Sys2Proof.Machine
end

section
/-! The modular inverse (spec/40_modinv.md R150, R152): every Newton step squares the residue `1 - v * x`, which is a
multiple of 4 at the start, so after five steps it is a multiple of `4^32 = 2^64`: zero at every width. -/

namespace Sys2Proof.Machine

/-! ### Newton's iteration -/

/-- Each Newton step squares the residue `1 - v * x` (R152). -/
theorem one_sub_mul_newtonSteps {N : Nat} (v : BitVec N) (k : Nat) (x : BitVec N) :
    1 - v * newtonSteps v k x = (1 - v * x) ^ 2 ^ k := by
  induction k generalizing x with
  | zero => simp [newtonSteps]
  | succ k ih =>
    have hsquare : 1 - v * (x * (2 - v * x)) = (1 - v * x) ^ 2 := by ring
    rw [newtonSteps, ih, hsquare, ← pow_mul, ← pow_succ']

/-- Five squarings of 4 give `2^64`, which is zero in at most 64 bits. -/
theorem four_pow_two_pow_five_eq_zero {N : Nat} (hN : N ≤ 64) : (4 : BitVec N) ^ 2 ^ 5 = 0 := by
  have hmod : 2 ^ 64 % 2 ^ N = 0 := Nat.mod_eq_zero_of_dvd (Nat.pow_dvd_pow 2 hN)
  calc (4 : BitVec N) ^ 2 ^ 5
      = ((2 ^ 64 : Nat) : BitVec N) := by norm_num
    _ = 0 := BitVec.eq_of_toNat_eq (by simpa using hmod)

/-- A vector whose value is odd is odd in the ring of vectors. -/
theorem odd_of_toNat_mod_two {N : Nat} {v : BitVec N} (hv : v.toNat % 2 = 1) : Odd v := by
  have hcast : ((v.toNat : Nat) : BitVec N) = v := BitVec.eq_of_toNat_eq (by simp)
  exact hcast ▸ (Nat.odd_iff.mpr hv).natCast

/-- For odd `v` the reference algorithm gives the inverse of `v` (R150, R152). -/
theorem mul_inverse_of_odd {N : Nat} (hN : N ≤ 64) {v : BitVec N} (hv : Odd v) : v * inverse v = 1 := by
  obtain ⟨c, rfl⟩ := hv
  have hstart : 1 - (2 * c + 1) * (2 * c + 1) = 4 * -(c * (c + 1)) := by ring
  have hzero : 1 - (2 * c + 1) * inverse (2 * c + 1) = 0 := by
    rw [inverse, one_sub_mul_newtonSteps, hstart, mul_pow, four_pow_two_pow_five_eq_zero hN, zero_mul]
  exact (sub_eq_zero.mp hzero).symm

/-! ### The inverse of a W-bit value in a register -/

/-- Narrowing keeps a value that fits. -/
theorem toNat_narrow {W : Width} {v : Word64} (h : v.toNat < 2 ^ W.bits) : (narrow W v).toNat = v.toNat := by
  rw [narrow, BitVec.toNat_setWidth, Nat.mod_eq_of_lt h]

/-- The inverse is a W-bit value. -/
theorem toNat_inverseAt_lt (W : Width) (v : Word64) : (inverseAt W v).toNat < 2 ^ W.bits :=
  (fits_eq_true_iff _ W).mp (fits_zext64 _)

/-- The product of an odd W-bit value and its inverse is 1 mod `2^W` (R150). -/
theorem inverseAt_mul_mod {W : Width} {v : Word64} (hfits : v.toNat < 2 ^ W.bits) (hodd : v.toNat % 2 = 1) :
    ((inverseAt W v).toNat * v.toNat) % 2 ^ W.bits = 1 := by
  have hprod : inverse (narrow W v) * narrow W v = 1 := by
    rw [mul_comm]
    exact mul_inverse_of_odd (Width.bits_le W) (odd_of_toNat_mod_two ((toNat_narrow hfits).symm ▸ hodd))
  calc ((inverseAt W v).toNat * v.toNat) % 2 ^ W.bits
      = (inverse (narrow W v) * narrow W v).toNat := by
        rw [inverseAt, toNat_zext64 (Width.bits_le W), BitVec.toNat_mul, toNat_narrow hfits]
    _ = (1#W.bits).toNat := congrArg BitVec.toNat hprod
    _ = 1 := BitVec.toNat_one (Width.bits_pos W)

/-- An odd value has at most one W-bit inverse: it is coprime to `2^W`, so it cancels. -/
theorem eq_of_mul_mod_eq_one {n v x y : Nat} (hodd : v % 2 = 1) (hx : x < 2 ^ n) (hy : y < 2 ^ n)
    (hxv : (x * v) % 2 ^ n = 1) (hyv : (y * v) % 2 ^ n = 1) : y = x := by
  have hcoprime : Nat.Coprime (2 ^ n) v := (Nat.coprime_two_left.mpr (Nat.odd_iff.mpr hodd)).pow_left n
  have hmod : y * v ≡ x * v [MOD 2 ^ n] := hyv.trans hxv.symm
  exact (hmod.cancel_right_of_coprime hcoprime).eq_of_lt_of_lt hy hx

/-- An even value has no inverse: its products stay even mod `2^W`. -/
theorem mul_mod_ne_one_of_even {n v : Nat} (hn : 0 < n) (heven : v % 2 = 0) (y : Nat) : (y * v) % 2 ^ n ≠ 1 := by
  intro hone
  have hparity : (y * v) % 2 ^ n % 2 = 0 := by
    rw [Nat.mod_mod_of_dvd _ (dvd_pow_self 2 hn.ne'), Nat.mul_mod, heven, Nat.mul_zero, Nat.zero_mod]
  rw [hone] at hparity
  exact absurd hparity (by decide)

/-- Settles O41: Newton's iteration gives an inverse of an odd value, cancelling the value shows it is the only one, and
parity leaves an even value none. -/
theorem inverseIsTheInverse : Obligations.InverseIsTheInverse := by
  refine fun W v hfits => ⟨fun hodd => ?_, fun heven ⟨y, hyv⟩ =>
    mul_mod_ne_one_of_even (Width.bits_pos W) heven y hyv⟩
  have hprod := inverseAt_mul_mod hfits hodd
  exact ⟨toNat_inverseAt_lt W v, hprod,
    fun y hy hyv => eq_of_mul_mod_eq_one hodd (toNat_inverseAt_lt W v) hy hprod hyv⟩

/-! ### MODINV -/

/-- Bit 0 is the value's parity. -/
theorem getElem_zero_eq_mod_two (v : Word64) : v[0] = decide (v.toNat % 2 = 1) := by
  rw [← BitVec.getLsbD_eq_getElem, ← BitVec.testBit_toNat, Nat.testBit_zero]

/-- MODINV of a code that names no width raises UNSUPPORTED_WIDTH. -/
theorem exec_modinv_of_no_width {wc : Nat} (s : State) (h : widthOf wc = none) :
    exec (.modinv wc) s = .next (s.raise .unsupportedWidth) := by
  simp [exec, execModinv, h]

/-- MODINV of an operand that does not fit raises UNSUPPORTED_WIDTH. -/
theorem exec_modinv_of_not_fits {wc : Nat} {W : Width} {s : State} (hW : widthOf wc = some W)
    (hle : 2 ^ W.bits ≤ s.a0.toNat) : exec (.modinv wc) s = .next (s.raise .unsupportedWidth) := by
  have hfits : ¬ fits s.a0 W = true := fun h => absurd ((fits_eq_true_iff _ _).mp h) (Nat.not_lt.mpr hle)
  simp [exec, execModinv, hW, hfits]

/-- MODINV of an even operand that fits raises NON_INVERTIBLE (R154). -/
theorem exec_modinv_of_even {wc : Nat} {W : Width} {s : State} (hW : widthOf wc = some W)
    (hlt : s.a0.toNat < 2 ^ W.bits) (heven : s.a0.toNat % 2 = 0) :
    exec (.modinv wc) s = .next (s.raise .nonInvertible) := by
  simp [exec, execModinv, hW, (fits_eq_true_iff _ _).mpr hlt, getElem_zero_eq_mod_two, heven]

/-- MODINV of an odd operand that fits writes its inverse to RES. -/
theorem exec_modinv_of_odd {wc : Nat} {W : Width} {s : State} (hW : widthOf wc = some W)
    (hlt : s.a0.toNat < 2 ^ W.bits) (hodd : s.a0.toNat % 2 = 1) :
    exec (.modinv wc) s = .next (s.setRes (inverseAt W s.a0)).complete := by
  simp [exec, execModinv, hW, (fits_eq_true_iff _ _).mpr hlt, getElem_zero_eq_mod_two, hodd]

/-- Settles O36: MODINV's row, then its checks in order; what it writes is the inverse of O41. -/
theorem modinvRule : Obligations.ModinvRule := by
  refine ⟨encodedAs_row .modinv, fun s wc => ⟨fun hwc => ?_, fun W hbits => ?_⟩⟩
  · exact (exec_modinv_of_no_width s (widthOf_of_ge hwc)).trans (congrArg _ (s.raise_eq_errorState _))
  have hW := widthOf_of_bits hbits
  refine ⟨fun hle => ?_, fun hlt heven => ?_, fun hlt hodd => ?_⟩
  · exact (exec_modinv_of_not_fits hW hle).trans (congrArg _ (s.raise_eq_errorState _))
  · exact (exec_modinv_of_even hW hlt heven).trans (congrArg _ (s.raise_eq_errorState _))
  · refine ⟨inverseAt W s.a0, toNat_inverseAt_lt W s.a0, inverseAt_mul_mod hlt hodd, ?_⟩
    exact (exec_modinv_of_odd hW hlt hodd).trans (congrArg _ (State.complete_eq_doneState _))

end Sys2Proof.Machine
end

section
/-! The generic CRC engine (spec/41_crc.md): its byte step in exact arithmetic (R161), and CFG_CRC (R164). -/

namespace Sys2Proof.Machine

/-! ### The byte step -/

/-- One round on the register's value: double it mod `2^N`, and XOR `P` if its high bit was set (R161). -/
def crcRoundNat (N P x : Nat) : Nat := if x.testBit (N - 1) then (x * 2 % 2 ^ N) ^^^ P else x * 2 % 2 ^ N

/-- A round of the register is a round of its value. -/
theorem toNat_crcRound {N : Nat} (P r : BitVec N) : (crcRound P r).toNat = crcRoundNat N P.toNat r.toNat := by
  have hmsb : r.msb = r.toNat.testBit (N - 1) := by rw [BitVec.msb_eq_getLsbD_last, BitVec.testBit_toNat]
  have hshift : (r <<< 1).toNat = r.toNat * 2 % 2 ^ N := by rw [BitVec.toNat_shiftLeft, Nat.shiftLeft_eq, pow_one]
  simp only [crcRound, crcRoundNat, ← hmsb]
  split
  · rw [BitVec.toNat_xor, hshift]
  · exact hshift

/-- The rounds are the iterates of one round. -/
theorem crcRounds_eq_iterate {N : Nat} (P : BitVec N) (k : Nat) (r : BitVec N) :
    crcRounds P k r = (crcRound P)^[k] r := by
  induction k generalizing r with
  | zero => rfl
  | succ k ih => rw [crcRounds, ih, Function.iterate_succ_apply]

/-- Rounds of the register are rounds of its value. -/
theorem toNat_crcRounds {N : Nat} (P : BitVec N) (k : Nat) (r : BitVec N) :
    (crcRounds P k r).toNat = (crcRoundNat N P.toNat)^[k] r.toNat := by
  have hsemiconj : Function.Semiconj BitVec.toNat (crcRound P) (crcRoundNat N P.toNat) := toNat_crcRound P
  rw [crcRounds_eq_iterate, hsemiconj.iterate_right k]

/-- A byte moved to the top of the register, in exact arithmetic: no bit is lost. -/
theorem toNat_setWidth_shiftLeft_top {N : Nat} (hN : 8 ≤ N) (b : Byte) :
    (b.setWidth N <<< (N - 8)).toNat = b.toNat * 2 ^ (N - 8) := by
  have hlt : b.toNat * 2 ^ (N - 8) < 2 ^ N :=
    calc b.toNat * 2 ^ (N - 8)
        < 2 ^ 8 * 2 ^ (N - 8) := Nat.mul_lt_mul_of_pos_right b.isLt (Nat.two_pow_pos _)
      _ = 2 ^ N := by rw [← pow_add, Nat.add_sub_cancel' hN]
  rw [BitVec.toNat_shiftLeft, BitVec.toNat_setWidth_of_le hN, Nat.shiftLeft_eq, Nat.mod_eq_of_lt hlt]

/-- Settles O44: the byte enters the top of the register exactly, and each of the 8 rounds is a round of the value. -/
theorem crcByteArithmetic : Obligations.CrcByteArithmetic := by
  intro N P r refin b hN
  rw [crcByte, toNat_crcRounds, BitVec.toNat_xor, toNat_setWidth_shiftLeft_top hN]
  rfl

/-! ### CFG_CRC -/

/-- CFG_CRC of a context that does not exist raises BAD_CONTEXT. -/
theorem exec_cfgCrc_of_ge {s : State} {c : Nat} (wc : Nat) (ri ro : Bool) (hc : s.nctx ≤ c) :
    exec (.cfgCrc c wc ri ro) s = .next (s.raise .badContext) := by
  simp [exec, execCfgCrc, State.indexed_of_ge hc]

/-- CFG_CRC of a code that names no width raises UNSUPPORTED_WIDTH. -/
theorem exec_cfgCrc_of_no_width {s : State} {c wc : Nat} (ri ro : Bool) (hc : c < s.nctx) (hW : widthOf wc = none) :
    exec (.cfgCrc c wc ri ro) s = .next (s.raise .unsupportedWidth) := by
  obtain ⟨x, hx⟩ := State.get_of_lt hc
  simp [exec, execCfgCrc, State.indexed_of_get hx, hW]

/-- CFG_CRC at a width, with the operands' fit in the words of R164. -/
theorem exec_cfgCrc_of_width {s : State} {c wc : Nat} {W : Width} (ri ro : Bool) (hc : c < s.nctx)
    (hW : widthOf wc = some W) :
    exec (.cfgCrc c wc ri ro) s =
      if s.a0.toNat < 2 ^ W.bits ∧ s.a1.toNat < 2 ^ W.bits ∧ s.a2.toNat < 2 ^ W.bits
      then .next (s.setContext c (crcContext W ri ro s.a0 s.a1 s.a2)).complete
      else .next (s.raise .unsupportedWidth) := by
  obtain ⟨x, hx⟩ := State.get_of_lt hc
  simp only [exec, execCfgCrc, State.indexed_of_get hx, hW, fits_eq_true_iff, ite_not]
  split <;> rfl

/-- Settles O29: CFG_CRC's row, then its checks in order; the context it leaves is the whole variant. -/
theorem cfgCrcRule : Obligations.CfgCrcRule := by
  refine ⟨encodedAs_row .cfgCrc, fun s c wc ri ro => ⟨fun hc => ?_, fun hc hwc => ?_, fun W hc hbits => ?_⟩⟩
  · exact (exec_cfgCrc_of_ge wc ri ro hc).trans (congrArg _ (s.raise_eq_errorState _))
  · exact (exec_cfgCrc_of_no_width ri ro hc (widthOf_of_ge hwc)).trans (congrArg _ (s.raise_eq_errorState _))
  rw [exec_cfgCrc_of_width ri ro hc (widthOf_of_bits hbits)]
  refine ⟨fun hover => ?_, fun h0 h1 h2 => ?_⟩
  · rw [if_neg (by omega)]
    exact congrArg _ (s.raise_eq_errorState _)
  · rw [if_pos ⟨h0, h1, h2⟩]
    exact congrArg _ (State.complete_eq_doneState _)

end Sys2Proof.Machine
end

section
/-! The CRC-32 hardware engine's configuration (spec/42_crc32hw.md): its path selection (R195) and CFG_CRC32HW (R196). -/

namespace Sys2Proof.Machine

/-! ### The path -/

/-- Absent hardware under FAIL_FAST leaves no path (R195). -/
theorem selectPath_of_failFast {p : Params} (habsent : p.hwcrcPresent = false) (hpolicy : p.hwcrcPolicy = .failFast) :
    selectPath p = .error .unsupportedHardware := by
  simp only [selectPath, habsent, hpolicy, Bool.false_eq_true, if_false]

/-- Where there is a path, it is the hardware exactly when the hardware is present (R195). -/
theorem selectPath_of_present_or_fallback {p : Params} (h : p.hwcrcPresent = true ∨ p.hwcrcPolicy = .fallback) :
    selectPath p = .ok p.hwcrcPresent := by
  cases hpresent : p.hwcrcPresent with
  | true => simp only [selectPath, hpresent, if_true]
  | false =>
    have hpolicy : p.hwcrcPolicy = .fallback := h.resolve_left (by simp [hpresent])
    simp only [selectPath, hpresent, hpolicy, Bool.false_eq_true, if_false]

/-! ### CFG_CRC32HW -/

/-- The register image of the polynomial parameter is one of two constants (R10). -/
theorem HwPoly.zext64_value (p : HwPoly) :
    zext64 (HwPoly.value p) = if p = .p04C11DB7 then 0x04C11DB7 else 0x1EDC6F41 := by
  cases p <;> rfl

/-- CFG_CRC32HW of a context that does not exist raises BAD_CONTEXT. -/
theorem exec_cfgCrc32hw_of_ge {s : State} {c : Nat} (wc : Nat) (hc : s.nctx ≤ c) :
    exec (.cfgCrc32hw c wc) s = .next (s.raise .badContext) := by
  simp [exec, execCfgCrc32hw, State.indexed_of_ge hc]

/-- CFG_CRC32HW of any width code but 2 raises UNSUPPORTED_WIDTH. -/
theorem exec_cfgCrc32hw_of_ne {s : State} {c wc : Nat} (hc : c < s.nctx) (hwc : wc ≠ 2) :
    exec (.cfgCrc32hw c wc) s = .next (s.raise .unsupportedWidth) := by
  obtain ⟨x, hx⟩ := State.get_of_lt hc
  simp [exec, execCfgCrc32hw, State.indexed_of_get hx, hwc]

/-- CFG_CRC32HW at 32 bits raises what the path selection raises. -/
theorem exec_cfgCrc32hw_of_no_path {s : State} {c : Nat} {e : CmdError} (hc : c < s.nctx)
    (hpath : selectPath s.params = .error e) : exec (.cfgCrc32hw c 2) s = .next (s.raise e) := by
  obtain ⟨x, hx⟩ := State.get_of_lt hc
  simp [exec, execCfgCrc32hw, State.indexed_of_get hx, hpath]

/-- CFG_CRC32HW at 32 bits writes the fixed variant with the path selected. -/
theorem exec_cfgCrc32hw_of_path {s : State} {c : Nat} {path : Bool} (hc : c < s.nctx)
    (hpath : selectPath s.params = .ok path) :
    exec (.cfgCrc32hw c 2) s =
      .next (s.setContext c (crc32hwContext (HwPoly.value s.params.hwcrcPoly) path)).complete := by
  obtain ⟨x, hx⟩ := State.get_of_lt hc
  simp [exec, execCfgCrc32hw, State.indexed_of_get hx, hpath]

/-- Settles O30: CFG_CRC32HW's row, then its checks in order, the last of them the path selection of R195; the context
it leaves is the whole fixed variant. -/
theorem cfgCrc32hwRule : Obligations.CfgCrc32hwRule := by
  refine ⟨encodedAs_row .cfgCrc32hw, fun s c wc => ⟨fun hc => ?_, fun hc hwc => ?_, ?_, ?_⟩⟩
  · exact (exec_cfgCrc32hw_of_ge wc hc).trans (congrArg _ (s.raise_eq_errorState _))
  · exact (exec_cfgCrc32hw_of_ne hc hwc).trans (congrArg _ (s.raise_eq_errorState _))
  · rintro hc rfl habsent hpolicy
    have hpath := selectPath_of_failFast habsent hpolicy
    exact (exec_cfgCrc32hw_of_no_path hc hpath).trans (congrArg _ (s.raise_eq_errorState _))
  · rintro hc rfl hruns
    have hpath := selectPath_of_present_or_fallback hruns
    rw [exec_cfgCrc32hw_of_path hc hpath, State.complete_eq_doneState, ← HwPoly.zext64_value]
    rfl

end Sys2Proof.Machine
end

section
/-! The FNV-1a engine and its inverse (spec/43_fnv.md): the two byte steps in exact arithmetic (R210, R216), the operand
checks that CFG_FNV and CFG_FNVINV share (R212), the two commands (R212, R217), and UNSTEP (R218). -/

namespace Sys2Proof.Machine

open Sys2Proof.Certificates

/-! ### The byte steps -/

/-- The forward step in exact arithmetic: XOR the byte, then the product reduced mod `2^N` (R210). -/
theorem toNat_fnvByte {N : Nat} (hN : 8 ≤ N) (p r : BitVec N) (b : Byte) :
    (fnvByte p r b).toNat = ((r.toNat ^^^ b.toNat) * p.toNat) % 2 ^ N := by
  rw [fnvByte, BitVec.toNat_mul, BitVec.toNat_xor, BitVec.toNat_setWidth_of_le hN]

/-- The inverse step in exact arithmetic: the product reduced mod `2^N`, then XOR the byte (R216). -/
theorem toNat_fnvUnstep {N : Nat} (hN : 8 ≤ N) (q r : BitVec N) (b : Byte) :
    (fnvUnstep q r b).toNat = ((r.toNat * q.toNat) % 2 ^ N) ^^^ b.toNat := by
  rw [fnvUnstep, BitVec.toNat_xor, BitVec.toNat_mul, BitVec.toNat_setWidth_of_le hN]

/-- Settles O46: in 8 bits or more the zero-extended byte keeps its value, so each step is its arithmetic. -/
theorem fnvStepArithmetic : Obligations.FnvStepArithmetic := fun _ p q r b hN =>
  ⟨toNat_fnvByte hN p r b, toNat_fnvUnstep hN q r b⟩

/-! ### The operands of CFG_FNV and CFG_FNVINV -/

/-- The defaults exist at 32 and 64 bits only (R213, R214). -/
theorem fnvDefaults_of_narrow {W : Width} (hW : W.bits = 8 ∨ W.bits = 16) : fnvDefaults W = none := by
  cases W with
  | w8 | w16 => rfl
  | w32 | w64 => exact absurd hW (by decide)

/-- A default prime fits its width (R213). -/
theorem fnvDefaults_prime_lt {W : Width} {basis prime : Word64} (h : fnvDefaults W = some (basis, prime)) :
    prime.toNat < 2 ^ W.bits := by
  cases W with
  | w8 | w16 => cases h
  | w32 | w64 => cases h; decide

/-- A code that names no width is refused. -/
theorem fnvOperands_of_no_width {wc : Nat} (df : Bool) (s : State) (hW : widthOf wc = none) :
    fnvOperands wc df s = .error .unsupportedWidth := by
  simp only [fnvOperands, hW]

section
variable {wc : Nat} {W : Width} {s : State} (hW : widthOf wc = some W)
include hW

/-- DF at a width without defaults is refused. -/
theorem fnvOperands_of_no_default (hdef : fnvDefaults W = none) :
    fnvOperands wc true s = .error .unsupportedWidth := by
  simp only [fnvOperands, hW, hdef, if_true]

/-- DF takes the width's defaults. -/
theorem fnvOperands_of_default {basis prime : Word64} (hdef : fnvDefaults W = some (basis, prime)) :
    fnvOperands wc true s = .ok (W, basis, prime) := by
  simp only [fnvOperands, hW, hdef, if_true]

/-- Without DF the operands are A0 and A1, which must both fit. -/
theorem fnvOperands_of_given :
    fnvOperands wc false s =
      if s.a0.toNat < 2 ^ W.bits ∧ s.a1.toNat < 2 ^ W.bits then .ok (W, s.a0, s.a1) else .error .unsupportedWidth := by
  simp only [fnvOperands, hW, fits_eq_true_iff, ite_not, Bool.false_eq_true, if_false]

end

/-- Where the basis and the prime of a configuration at width `W` come from: the defaults, or operands that fit (R212). -/
def FnvSource (W : Width) (df : Bool) (s : State) (basis prime : Word64) : Prop :=
  (df = true ∧ fnvDefaults W = some (basis, prime)) ∨
    (df = false ∧ basis = s.a0 ∧ prime = s.a1 ∧ basis.toNat < 2 ^ W.bits ∧ prime.toNat < 2 ^ W.bits)

/-- The operands of either source are accepted. -/
theorem fnvOperands_of_source {wc : Nat} {W : Width} {df : Bool} {s : State} {basis prime : Word64}
    (hW : widthOf wc = some W) (h : FnvSource W df s basis prime) :
    fnvOperands wc df s = .ok (W, basis, prime) := by
  obtain ⟨rfl, hdef⟩ | ⟨rfl, rfl, rfl, hbasis, hprime⟩ := h
  · exact fnvOperands_of_default hW hdef
  · rw [fnvOperands_of_given hW, if_pos ⟨hbasis, hprime⟩]

/-- The prime of either source fits. -/
theorem FnvSource.prime_lt {W : Width} {df : Bool} {s : State} {basis prime : Word64}
    (h : FnvSource W df s basis prime) : prime.toNat < 2 ^ W.bits := by
  obtain ⟨-, hdef⟩ | ⟨-, -, -, -, hprime⟩ := h
  · exact fnvDefaults_prime_lt hdef
  · exact hprime

/-- The three ways the operands are refused: the width code, DF at 8 or 16 bits, a given operand that does not fit. -/
theorem fnvOperands_refused (wc : Nat) (df : Bool) (s : State) :
    (4 ≤ wc → fnvOperands wc df s = .error .unsupportedWidth) ∧
    ∀ W : Width, W.bits = 8 * 2 ^ wc →
      (df = true → W.bits = 8 ∨ W.bits = 16 → fnvOperands wc df s = .error .unsupportedWidth) ∧
      (df = false → 2 ^ W.bits ≤ s.a0.toNat ∨ 2 ^ W.bits ≤ s.a1.toNat →
        fnvOperands wc df s = .error .unsupportedWidth) := by
  refine ⟨fun hwc => fnvOperands_of_no_width df s (widthOf_of_ge hwc), fun W hbits => ⟨?_, ?_⟩⟩
  · rintro rfl hnarrow
    exact fnvOperands_of_no_default (widthOf_of_bits hbits) (fnvDefaults_of_narrow hnarrow)
  · rintro rfl hover
    rw [fnvOperands_of_given (widthOf_of_bits hbits), if_neg (by omega)]

/-! ### CFG_FNV -/

/-- CFG_FNV of a context that does not exist raises BAD_CONTEXT. -/
theorem exec_cfgFnv_of_ge {s : State} {c : Nat} (wc : Nat) (df : Bool) (hc : s.nctx ≤ c) :
    exec (.cfgFnv c wc df) s = .next (errorState s 5) := by
  simp only [exec, execCfgFnv, State.indexed_of_ge hc, conclude_error, State.raise_eq_errorState]
  rfl

/-- CFG_FNV of operands that are refused raises UNSUPPORTED_WIDTH. -/
theorem exec_cfgFnv_of_refused {s : State} {c wc : Nat} {df : Bool} (hc : c < s.nctx)
    (h : fnvOperands wc df s = .error .unsupportedWidth) : exec (.cfgFnv c wc df) s = .next (errorState s 1) := by
  obtain ⟨x, hx⟩ := State.get_of_lt hc
  simp only [exec, execCfgFnv, State.indexed_of_get hx, h, conclude_error, State.raise_eq_errorState]
  rfl

/-- CFG_FNV of operands that are accepted writes the whole context. -/
theorem exec_cfgFnv_of_accepted {s : State} {c wc : Nat} {df : Bool} {W : Width} {basis prime : Word64}
    (hc : c < s.nctx) (h : fnvOperands wc df s = .ok (W, basis, prime)) :
    exec (.cfgFnv c wc df) s = .next (doneState (s.setContext c (fnvContext W basis prime))) := by
  obtain ⟨x, hx⟩ := State.get_of_lt hc
  simp only [exec, execCfgFnv, State.indexed_of_get hx, h, conclude_ok, State.complete_eq_doneState]

/-- Settles O31: CFG_FNV's row, the context check, the ways the operands are refused, and the context the accepted ones
configure. -/
theorem cfgFnvRule : Obligations.CfgFnvRule := by
  refine ⟨encodedAs_row .cfgFnv, fun s c wc df => ?_⟩
  obtain ⟨hcode, hwidth⟩ := fnvOperands_refused wc df s
  refine ⟨exec_cfgFnv_of_ge wc df, fun hc hwc => exec_cfgFnv_of_refused hc (hcode hwc), fun W hc hbits => ?_⟩
  obtain ⟨hdefault, hgiven⟩ := hwidth W hbits
  refine ⟨fun hdf hnarrow => ?_, fun hdf hover => ?_, fun basis prime hsource => ?_⟩
  · exact exec_cfgFnv_of_refused hc (hdefault hdf hnarrow)
  · exact exec_cfgFnv_of_refused hc (hgiven hdf hover)
  · exact exec_cfgFnv_of_accepted hc (fnvOperands_of_source (widthOf_of_bits hbits) hsource)

/-! ### CFG_FNVINV -/

/-- CFG_FNVINV of a context that does not exist raises BAD_CONTEXT. -/
theorem exec_cfgFnvinv_of_ge {s : State} {c : Nat} (wc : Nat) (df : Bool) (hc : s.nctx ≤ c) :
    exec (.cfgFnvinv c wc df) s = .next (errorState s 5) := by
  simp only [exec, execCfgFnvinv, State.indexed_of_ge hc, conclude_error, State.raise_eq_errorState]
  rfl

/-- CFG_FNVINV of operands that are refused raises UNSUPPORTED_WIDTH. -/
theorem exec_cfgFnvinv_of_refused {s : State} {c wc : Nat} {df : Bool} (hc : c < s.nctx)
    (h : fnvOperands wc df s = .error .unsupportedWidth) : exec (.cfgFnvinv c wc df) s = .next (errorState s 1) := by
  obtain ⟨x, hx⟩ := State.get_of_lt hc
  simp only [exec, execCfgFnvinv, State.indexed_of_get hx, h, conclude_error, State.raise_eq_errorState]
  rfl

/-- CFG_FNVINV of operands that are accepted asks for an odd prime: an even one is NON_INVERTIBLE (R217). -/
theorem exec_cfgFnvinv_of_accepted {s : State} {c wc : Nat} {df : Bool} {W : Width} {basis prime : Word64}
    (hc : c < s.nctx) (h : fnvOperands wc df s = .ok (W, basis, prime)) :
    exec (.cfgFnvinv c wc df) s =
      if prime.toNat % 2 = 1 then .next (doneState (s.setContext c (fnvinvContext W basis prime)))
      else .next (errorState s 2) := by
  obtain ⟨x, hx⟩ := State.get_of_lt hc
  have hbit : prime.getLsbD 0 = decide (prime.toNat % 2 = 1) := getElem_zero_eq_mod_two prime
  simp only [exec, execCfgFnvinv, State.indexed_of_get hx, h, hbit, decide_eq_false_iff_not, ite_not]
  split
  · rw [conclude_ok, State.complete_eq_doneState]
  · rw [conclude_error, State.raise_eq_errorState]
    rfl

/-- Settles O32: CFG_FNVINV's row and CFG_FNV's checks, then the prime's parity; the PINV it writes is the inverse of
O41. -/
theorem cfgFnvinvRule : Obligations.CfgFnvinvRule := by
  refine ⟨encodedAs_row .cfgFnvinv, fun s c wc df => ?_⟩
  obtain ⟨hcode, hwidth⟩ := fnvOperands_refused wc df s
  refine ⟨exec_cfgFnvinv_of_ge wc df, fun hc hwc => exec_cfgFnvinv_of_refused hc (hcode hwc), fun W hc hbits => ?_⟩
  obtain ⟨hdefault, hgiven⟩ := hwidth W hbits
  refine ⟨fun hdf hnarrow => ?_, fun hdf hover => ?_, fun basis prime hsource => ?_⟩
  · exact exec_cfgFnvinv_of_refused hc (hdefault hdf hnarrow)
  · exact exec_cfgFnvinv_of_refused hc (hgiven hdf hover)
  rw [exec_cfgFnvinv_of_accepted hc (fnvOperands_of_source (widthOf_of_bits hbits) hsource)]
  refine ⟨fun heven => if_neg (by omega), fun hodd => ?_⟩
  have hprime : prime.toNat < 2 ^ W.bits := FnvSource.prime_lt hsource
  exact ⟨inverseAt W prime, toNat_inverseAt_lt W prime, inverseAt_mul_mod hprime hodd, if_pos hodd⟩

/-! ### UNSTEP -/

/-- FNVINV is the only kind UNSTEP applies to (R218). -/
theorem inverse?_eq_none {k : Kind} (hk : k ≠ .fnvinv) : Kind.inverse? k = none := by
  cases k with
  | fnvinv => exact absurd rfl hk
  | noEngine | crc | crc32hw | fnv | djb2 | djb2alt => rfl

/-- The first byte of an operand register is its value mod 256. -/
theorem toNat_operandByte_zero (v : Word64) : (operandByte v 0).toNat = v.toNat % 256 := by
  simp [operandByte]

/-- REG after an UNSTEP of the context `x` with the operand `v`. -/
def unstepReg (x : Context) (v : Word64) : Word64 :=
  zext64 (fnvUnstep (narrow x.width x.pinv) (narrow x.width x.reg) (operandByte v 0))

/-- The inverse step on the context's fields in exact arithmetic; reducing them to W bits first changes nothing. -/
theorem toNat_unstepReg (x : Context) (v : Word64) :
    (unstepReg x v).toNat = ((x.reg.toNat * x.pinv.toNat) % 2 ^ x.width.bits) ^^^ (v.toNat % 256) := by
  rw [unstepReg, toNat_zext64 (Width.bits_le _), toNat_fnvUnstep (Width.eight_le_bits _), toNat_operandByte_zero,
    narrow, narrow, BitVec.toNat_setWidth, BitVec.toNat_setWidth, ← Nat.mul_mod]

/-- UNSTEP raises what the context check raises. -/
theorem exec_unstep_of_error {s : State} {c : Nat} {e : CmdError}
    (h : s.checkContext c Kind.inverse? = .error e) :
    exec (.unstep c) s = .next (errorState s (e.code.setWidth 32)) := by
  simp only [exec, execUnstep, h, conclude_error, State.raise_eq_errorState]

/-- UNSTEP of an FNVINV context writes REG. -/
theorem exec_unstep_of_fnvinv {s : State} {c : Nat} {x : Context} (hx : s.contexts[c]? = some x)
    (hk : x.kind = .fnvinv) : exec (.unstep c) s = .next (doneState (s.setReg c x (unstepReg x s.a0))) := by
  have hcheck : s.checkContext c Kind.inverse? = .ok ((), x) :=
    State.checkContext_of_allowed _ hx (by simp [hk]) (by simp [hk, Kind.inverse?])
  simp only [exec, execUnstep, hcheck, conclude_ok, State.complete_eq_doneState, unstepReg]

/-- Settles O33: UNSTEP's row, the context checks in order, and the inverse step of O46 on an FNVINV context. -/
theorem unstepRule : Obligations.UnstepRule := by
  refine ⟨encodedAs_row .unstep, fun s c => ⟨fun hc => ?_, fun x hx => ⟨fun hk => ?_, fun hk hne => ?_, fun hk => ?_⟩⟩⟩
  · exact exec_unstep_of_error (State.checkContext_of_ge _ hc)
  · exact exec_unstep_of_error (State.checkContext_of_none _ hx hk)
  · exact exec_unstep_of_error (State.checkContext_of_mismatch _ hx hk (inverse?_eq_none hne))
  · exact ⟨unstepReg x s.a0, toNat_unstepReg x s.a0, exec_unstep_of_fnvinv hx hk⟩

end Sys2Proof.Machine
end

section
/-! The configuration of the DJB2 engines (spec/44_djb2.md): the operand checks that CFG_DJB2 and CFG_DJB2ALT share, and
the two commands (R244, R245), which differ only in the context they write. -/

namespace Sys2Proof.Machine

open Sys2Proof.Certificates

/-! ### The operands -/

/-- The default basis does not exist at 8 bits (R243). -/
theorem djb2Default_of_eight {W : Width} (hW : W.bits = 8) : djb2Default W = none := by
  cases W with
  | w8 => rfl
  | w16 | w32 | w64 => exact absurd hW (by decide)

/-- At every other width it is 0x1505 (R243). -/
theorem djb2Default_of_ne_eight {W : Width} (hW : W.bits ≠ 8) : djb2Default W = some 0x1505 := by
  cases W with
  | w8 => exact absurd rfl hW
  | w16 | w32 | w64 => rfl

/-- A code that names no width is refused. -/
theorem djb2Operands_of_no_width {wc : Nat} (df : Bool) (s : State) (hW : widthOf wc = none) :
    djb2Operands wc df s = .error .unsupportedWidth := by
  simp only [djb2Operands, hW]

section
variable {wc : Nat} {W : Width} {s : State} (hW : widthOf wc = some W)
include hW

/-- DF at 8 bits is refused. -/
theorem djb2Operands_of_no_default (hbits : W.bits = 8) : djb2Operands wc true s = .error .unsupportedWidth := by
  simp only [djb2Operands, hW, djb2Default_of_eight hbits, if_true]

/-- DF at any other width takes the default basis. -/
theorem djb2Operands_of_default (hbits : W.bits ≠ 8) : djb2Operands wc true s = .ok (W, 0x1505) := by
  simp only [djb2Operands, hW, djb2Default_of_ne_eight hbits, if_true]

/-- Without DF the basis is A0, which must fit. -/
theorem djb2Operands_of_given :
    djb2Operands wc false s = if s.a0.toNat < 2 ^ W.bits then .ok (W, s.a0) else .error .unsupportedWidth := by
  simp only [djb2Operands, hW, fits_eq_true_iff, ite_not, Bool.false_eq_true, if_false]

end

/-- Where the basis of a configuration at width `W` comes from: the default, or an operand that fits (R244). -/
def Djb2Source (W : Width) (df : Bool) (s : State) (basis : Word64) : Prop :=
  (df = true ∧ W.bits ≠ 8 ∧ basis = 0x1505) ∨ (df = false ∧ basis = s.a0 ∧ basis.toNat < 2 ^ W.bits)

/-- The basis of either source is accepted. -/
theorem djb2Operands_of_source {wc : Nat} {W : Width} {df : Bool} {s : State} {basis : Word64}
    (hW : widthOf wc = some W) (h : Djb2Source W df s basis) : djb2Operands wc df s = .ok (W, basis) := by
  obtain ⟨rfl, hbits, rfl⟩ | ⟨rfl, rfl, hfits⟩ := h
  · exact djb2Operands_of_default hW hbits
  · rw [djb2Operands_of_given hW, if_pos hfits]

/-! ### The two commands -/

/-- What CFG_DJB2 and CFG_DJB2ALT have in common: the checks in order, then the context that `variant` makes of the
width and the basis. -/
def configureDjb2 (variant : Width → Word64 → Context) (c wc : Nat) (df : Bool) (s : State) :
    Host.Outcome State Fault Refusal :=
  conclude s <|
    match s.indexed c with
    | .error e => .error e
    | .ok _ =>
      match djb2Operands wc df s with
      | .error e => .error e
      | .ok (W, basis) => .ok (s.setContext c (variant W basis))

/-- CFG_DJB2 is the shared configuration with the DJB2 context (R244). -/
theorem exec_cfgDjb2 (c wc : Nat) (df : Bool) (s : State) :
    exec (.cfgDjb2 c wc df) s = configureDjb2 djb2Context c wc df s := rfl

/-- CFG_DJB2ALT is the shared configuration with the DJB2-alternate context (R245). -/
theorem exec_cfgDjb2alt (c wc : Nat) (df : Bool) (s : State) :
    exec (.cfgDjb2alt c wc df) s = configureDjb2 djb2altContext c wc df s := rfl

section
variable (variant : Width → Word64 → Context) {c wc : Nat} {df : Bool} {s : State}

/-- A context that does not exist raises BAD_CONTEXT. -/
theorem configureDjb2_of_ge (hc : s.nctx ≤ c) : configureDjb2 variant c wc df s = .next (errorState s 5) := by
  simp only [configureDjb2, State.indexed_of_ge hc, conclude_error, State.raise_eq_errorState]
  rfl

/-- Operands that are refused raise UNSUPPORTED_WIDTH. -/
theorem configureDjb2_of_refused (hc : c < s.nctx) (h : djb2Operands wc df s = .error .unsupportedWidth) :
    configureDjb2 variant c wc df s = .next (errorState s 1) := by
  obtain ⟨x, hx⟩ := State.get_of_lt hc
  simp only [configureDjb2, State.indexed_of_get hx, h, conclude_error, State.raise_eq_errorState]
  rfl

/-- Operands that are accepted configure the context. -/
theorem configureDjb2_of_accepted {W : Width} {basis : Word64} (hc : c < s.nctx)
    (h : djb2Operands wc df s = .ok (W, basis)) :
    configureDjb2 variant c wc df s = .next (doneState (s.setContext c (variant W basis))) := by
  obtain ⟨x, hx⟩ := State.get_of_lt hc
  simp only [configureDjb2, State.indexed_of_get hx, h, conclude_ok, State.complete_eq_doneState]

end

/-- The rule the two commands share: the context check, the three ways the operands are refused, and the context the
accepted ones configure (R244, R245). -/
theorem configureDjb2_rule (variant : Width → Word64 → Context) (s : State) (c wc : Nat) (df : Bool) :
    (s.nctx ≤ c → configureDjb2 variant c wc df s = .next (errorState s 5)) ∧
    (c < s.nctx → 4 ≤ wc → configureDjb2 variant c wc df s = .next (errorState s 1)) ∧
    ∀ W : Width, c < s.nctx → W.bits = 8 * 2 ^ wc →
      (df = true → W.bits = 8 → configureDjb2 variant c wc df s = .next (errorState s 1)) ∧
      (df = false → 2 ^ W.bits ≤ s.a0.toNat → configureDjb2 variant c wc df s = .next (errorState s 1)) ∧
      ∀ basis : Word64, Djb2Source W df s basis →
        configureDjb2 variant c wc df s = .next (doneState (s.setContext c (variant W basis))) := by
  refine ⟨configureDjb2_of_ge variant, fun hc hwc => ?_, fun W hc hbits => ?_⟩
  · exact configureDjb2_of_refused variant hc (djb2Operands_of_no_width df s (widthOf_of_ge hwc))
  have hW := widthOf_of_bits hbits
  refine ⟨?_, ?_, fun basis hsource => ?_⟩
  · rintro rfl height
    exact configureDjb2_of_refused variant hc (djb2Operands_of_no_default hW height)
  · rintro rfl hover
    have hrefused : djb2Operands wc false s = .error .unsupportedWidth := by
      rw [djb2Operands_of_given hW, if_neg (Nat.not_lt.mpr hover)]
    exact configureDjb2_of_refused variant hc hrefused
  · exact configureDjb2_of_accepted variant hc (djb2Operands_of_source hW hsource)

/-- Settles O34: CFG_DJB2's row, and the shared rule with the DJB2 context. -/
theorem cfgDjb2Rule : Obligations.CfgDjb2Rule := by
  refine ⟨encodedAs_row .cfgDjb2, fun s c wc df => ?_⟩
  rw [exec_cfgDjb2]
  exact configureDjb2_rule djb2Context s c wc df

/-- Settles O35: CFG_DJB2ALT's row, and the shared rule with the DJB2-alternate context. -/
theorem cfgDjb2altRule : Obligations.CfgDjb2altRule := by
  refine ⟨encodedAs_row .cfgDjb2alt, fun s c wc df => ?_⟩
  rw [exec_cfgDjb2alt]
  exact configureDjb2_rule djb2altContext s c wc df

end Sys2Proof.Machine
end

section
/-! Span admission (spec/20_memory.md R84, R85): taking the regions away from a span leaves the addresses of the span
that lie in no region, so nothing is left when every byte of the span is valid. -/

namespace Sys2Proof.Machine

open Sys2Proof.Certificates

/-- The address lies in one of the intervals, each `[lo, hi)`. -/
def Covered (ivs : List (Nat × Nat)) (a : Nat) : Prop := ∃ iv ∈ ivs, iv.1 ≤ a ∧ a < iv.2

@[simp] theorem covered_singleton {lo hi a : Nat} : Covered [(lo, hi)] a ↔ lo ≤ a ∧ a < hi := by
  simp [Covered]

/-- The parts a region leaves of an interval hold the interval's addresses outside the region. -/
theorem covered_cut {r : Region} {lo hi a : Nat} :
    Covered (Region.cut r lo hi) a ↔ (lo ≤ a ∧ a < hi) ∧ Region.has r a = false := by
  have hparts : Covered (Region.cut r lo hi) a ↔
      (lo ≤ a ∧ a < min hi r.base) ∨ (max lo (r.base + r.size) ≤ a ∧ a < hi) := by
    unfold Region.cut Covered
    split <;> split <;> simp <;> omega
  rw [hparts]
  simp only [Region.has, Bool.and_eq_false_iff, decide_eq_false_iff_not]
  omega

/-- Taking a region away from every interval takes its addresses away. -/
theorem covered_flatMap_cut {r : Region} {ivs : List (Nat × Nat)} {a : Nat} :
    Covered (ivs.flatMap fun iv => Region.cut r iv.1 iv.2) a ↔ Covered ivs a ∧ Region.has r a = false := by
  calc Covered (ivs.flatMap fun iv => Region.cut r iv.1 iv.2) a
      ↔ ∃ iv ∈ ivs, Covered (Region.cut r iv.1 iv.2) a := by
        simp only [Covered, List.mem_flatMap]
        exact ⟨fun ⟨p, ⟨iv, hiv, hp⟩, ha⟩ => ⟨iv, hiv, p, hp, ha⟩, fun ⟨iv, hiv, p, hp, ha⟩ => ⟨p, ⟨iv, hiv, hp⟩, ha⟩⟩
    _ ↔ Covered ivs a ∧ Region.has r a = false := by
        simp only [covered_cut]
        exact ⟨fun ⟨iv, hiv, ha, hr⟩ => ⟨⟨iv, hiv, ha⟩, hr⟩, fun ⟨⟨iv, hiv, ha⟩, hr⟩ => ⟨iv, hiv, ha, hr⟩⟩

/-- What is left when every region is taken away are the addresses in no region. -/
theorem covered_uncovered {rs : List Region} {ivs : List (Nat × Nat)} {a : Nat} :
    Covered (uncovered rs ivs) a ↔ Covered ivs a ∧ rs.any (fun r => Region.has r a) = false := by
  induction rs generalizing ivs with
  | nil => simp [uncovered]
  | cons r rest ih => rw [uncovered, ih, covered_flatMap_cut, List.any_cons, Bool.or_eq_false_iff, and_assoc]

/-- A region leaves no empty part. -/
theorem lt_of_mem_cut {r : Region} {lo hi : Nat} {p : Nat × Nat} (hp : p ∈ Region.cut r lo hi) : p.1 < p.2 := by
  rcases List.mem_append.mp hp with h | h
  all_goals
    split at h
    · obtain rfl := List.mem_singleton.mp h
      assumption
    · cases h

/-- So nothing that is left is an empty interval. -/
theorem lt_of_mem_uncovered {rs : List Region} {ivs : List (Nat × Nat)} (hivs : ∀ p ∈ ivs, p.1 < p.2) :
    ∀ p ∈ uncovered rs ivs, p.1 < p.2 := by
  induction rs generalizing ivs with
  | nil => exact hivs
  | cons r rest ih =>
    refine ih fun p hp => ?_
    obtain ⟨iv, -, hcut⟩ := List.mem_flatMap.mp hp
    exact lt_of_mem_cut hcut

/-- A list of intervals, none of them empty, is empty when it covers no address. -/
theorem eq_nil_iff_covers_nothing {ivs : List (Nat × Nat)} (hivs : ∀ p ∈ ivs, p.1 < p.2) :
    ivs = [] ↔ ∀ a, ¬ Covered ivs a := by
  refine ⟨?_, fun hnone => List.eq_nil_iff_forall_not_mem.mpr fun p hp => ?_⟩
  · rintro rfl a ⟨iv, hiv, -⟩
    cases hiv
  · exact hnone p.1 ⟨p, hp, Nat.le_refl _, hivs p hp⟩

/-- A non-empty span is used up by the regions when each of its bytes lies in one. -/
theorem uncovered_span_eq_nil_iff {rs : List Region} {a n : Nat} (hn : 0 < n) :
    uncovered rs [(a, a + n)] = [] ↔ ∀ i, i < n → rs.any (fun r => Region.has r (a + i)) = true := by
  have hspan : ∀ p ∈ [(a, a + n)], p.1 < p.2 := by simpa using hn
  rw [eq_nil_iff_covers_nothing (lt_of_mem_uncovered hspan)]
  simp only [covered_uncovered, covered_singleton, not_and, Bool.not_eq_false]
  refine ⟨fun h i hi => h (a + i) ⟨by omega, by omega⟩, fun h b ⟨hlo, hhi⟩ => ?_⟩
  have hb := h (b - a) (by omega)
  rwa [Nat.add_sub_cancel' hlo] at hb

/-- The interval check is the admission of R85. -/
theorem spanOk_iff_spanAdmitted (p : Params) (a n : Nat) : spanOk p a n = true ↔ SpanAdmitted p a n := by
  rcases Nat.eq_zero_or_pos n with rfl | hn
  · simp [spanOk, SpanAdmitted]
  have hbytes : a + n ≤ 2 ^ p.aw →
      (uncovered p.dmemValid [(a, a + n)] = [] ↔ ∀ i, i < n → dmemValid p (a + i) = true) := by
    intro hend
    rw [uncovered_span_eq_nil_iff hn]
    refine forall₂_congr fun i hi => ?_
    have hlt : a + i < 2 ^ p.aw := by omega
    rw [dmemValid, decide_eq_true hlt, Bool.true_and]
  simp only [spanOk, SpanAdmitted, Bool.or_eq_true, beq_iff_eq, Bool.and_eq_true, decide_eq_true_eq,
    List.isEmpty_iff]
  exact or_congr_right (and_congr_right hbytes)

end Sys2Proof.Machine
end

section
/-! The commands that drive a context of any kind (spec/45_context_ops.md R262 to R270). RESET, UPDATE, UPDATEI, FINAL,
LOADREG and READREG have one shape: the context check of R261, then an effect on the context found. -/

namespace Sys2Proof.Machine

open Sys2Proof.Certificates

/-! ### How a command ends -/

/-- An error leaves the state the statements describe (R301). -/
theorem conclude_error_eq_errorState (s : State) (e : CmdError) :
    conclude s (.error e) = .next (errorState s (e.code.setWidth 32)) := by
  rw [conclude_error, State.raise_eq_errorState]

/-- So does a completed effect (R302). -/
theorem conclude_ok_eq_doneState (s t : State) : conclude s (.ok t) = .next (doneState t) := by
  rw [conclude_ok, State.complete_eq_doneState]

/-- Settles O20: NOP's row, and a completion with no effect. -/
theorem nopRule : Obligations.NopRule :=
  ⟨encodedAs_row .nop, fun s => conclude_ok_eq_doneState s s⟩

/-! ### Commands that check their context -/

/-- A command of the shared shape: the check of R261 with the kinds `allow` admits, then `effect`, which may still find
an error. -/
def onContext {α : Type} (s : State) (c : Nat) (allow : Kind → Option α)
    (effect : α → Context → Except CmdError State) : Host.Outcome State Fault Refusal :=
  conclude s <|
    match s.checkContext c allow with
    | .error e => .error e
    | .ok (k, x) => effect k x

/-! The commands of that shape, each by its effect (R263 to R268). -/

theorem exec_reset (c : Nat) (s : State) :
    exec (.reset c) s = onContext s c Kind.anyEngine fun _ x => .ok (s.setReg c x x.init) := by
  simp only [exec, execReset, onContext]
  cases s.checkContext c Kind.anyEngine <;> rfl

theorem exec_update (c : Nat) (s : State) :
    exec (.update c) s = onContext s c Kind.stream? fun k x =>
      if ¬ spanOk s.params s.a0.toNat s.a1.toNat then .error .spanFault
      else .ok (s.setReg c x (foldMessage k x x.reg (s.spanBytes s.a0.toNat s.a1.toNat))) := by
  simp only [exec, execUpdate, onContext]
  cases s.checkContext c Kind.stream? <;> rfl

theorem exec_updatei (c n : Nat) (s : State) :
    exec (.updatei c n) s = onContext s c Kind.stream? fun k x =>
      .ok (s.setReg c x (foldMessage k x x.reg (operandBytes s.a0 (n + 1)))) := by
  simp only [exec, execUpdatei, onContext]
  cases s.checkContext c Kind.stream? <;> rfl

theorem exec_final (c : Nat) (s : State) :
    exec (.final c) s = onContext s c Kind.stream? fun k x => .ok (s.setRes (finalValue k x x.reg)) := by
  simp only [exec, execFinal, onContext]
  cases s.checkContext c Kind.stream? <;> rfl

theorem exec_loadreg (c : Nat) (s : State) :
    exec (.loadreg c) s = onContext s c Kind.anyEngine fun _ x =>
      if ¬ fits s.a0 x.width then .error .unsupportedWidth else .ok (s.setReg c x s.a0) := by
  simp only [exec, execLoadreg, onContext]
  cases s.checkContext c Kind.anyEngine <;> rfl

theorem exec_readreg (c : Nat) (s : State) :
    exec (.readreg c) s = onContext s c Kind.anyEngine fun _ x => .ok (s.setRes x.reg) := by
  simp only [exec, execReadreg, onContext]
  cases s.checkContext c Kind.anyEngine <;> rfl

section
variable {α : Type} {s : State} {c : Nat} {allow : Kind → Option α} {effect : α → Context → Except CmdError State}

/-- A context that does not exist raises BAD_CONTEXT. -/
theorem onContext_of_ge (hc : s.nctx ≤ c) : onContext s c allow effect = .next (errorState s 5) := by
  simp only [onContext, State.checkContext_of_ge allow hc, conclude_error_eq_errorState]
  rfl

variable {x : Context} (hx : s.contexts[c]? = some x)
include hx

/-- A NONE context raises NOT_CONFIGURED. -/
theorem onContext_of_none (hk : x.kind = .noEngine) : onContext s c allow effect = .next (errorState s 6) := by
  simp only [onContext, State.checkContext_of_none allow hx hk, conclude_error_eq_errorState]
  rfl

/-- A kind the command does not admit raises KIND_MISMATCH. -/
theorem onContext_of_mismatch (hk : x.kind ≠ .noEngine) (ha : allow x.kind = none) :
    onContext s c allow effect = .next (errorState s 7) := by
  simp only [onContext, State.checkContext_of_mismatch allow hx hk ha, conclude_error_eq_errorState]
  rfl

/-- A kind the command admits lets the effect decide. -/
theorem onContext_of_allowed {k : α} (hk : x.kind ≠ .noEngine) (ha : allow x.kind = some k) :
    onContext s c allow effect = conclude s (effect k x) := by
  simp only [onContext, State.checkContext_of_allowed allow hx hk ha]

end

/-! ### Commands on any engine: RESET, LOADREG, READREG -/

/-- Every kind but NONE is admitted. -/
theorem onContext_of_engine {s : State} {c : Nat} {effect : Unit → Context → Except CmdError State} {x : Context}
    (hx : s.contexts[c]? = some x) (hk : x.kind ≠ .noEngine) :
    onContext s c Kind.anyEngine effect = conclude s (effect () x) :=
  onContext_of_allowed hx hk rfl

/-- Settles O21: RESET's row, the context check, and INIT in REG. -/
theorem resetRule : Obligations.ResetRule := by
  refine ⟨encodedAs_row .reset, fun s c => ?_⟩
  rw [exec_reset]
  refine ⟨onContext_of_ge, fun x hx => ⟨onContext_of_none hx, fun hk => ?_⟩⟩
  rw [onContext_of_engine hx hk]
  exact conclude_ok_eq_doneState s _

/-- Settles O25: LOADREG's row, the context check, the fit of A0 in the context's width, and A0 in REG. -/
theorem loadregRule : Obligations.LoadregRule := by
  refine ⟨encodedAs_row .loadreg, fun s c => ?_⟩
  rw [exec_loadreg]
  refine ⟨onContext_of_ge, fun x hx => ⟨onContext_of_none hx, fun hk hover => ?_, fun hk hfits => ?_⟩⟩
  · have hwide : ¬ fits s.a0 x.width = true := fun h => absurd ((fits_eq_true_iff _ _).mp h) (Nat.not_lt.mpr hover)
    rw [onContext_of_engine hx hk, if_pos hwide]
    exact conclude_error_eq_errorState s _
  · rw [onContext_of_engine hx hk, if_neg (not_not_intro ((fits_eq_true_iff _ _).mpr hfits))]
    exact conclude_ok_eq_doneState s _

/-- Settles O26: READREG's row, the context check, and REG in RES. -/
theorem readregRule : Obligations.ReadregRule := by
  refine ⟨encodedAs_row .readreg, fun s c => ?_⟩
  rw [exec_readreg]
  refine ⟨onContext_of_ge, fun x hx => ⟨onContext_of_none hx, fun hk => ?_⟩⟩
  rw [onContext_of_engine hx hk]
  exact conclude_ok_eq_doneState s _

/-! ### Commands on a kind with a byte step: UPDATE, UPDATEI, FINAL -/

section
variable {s : State} {c : Nat} {effect : StreamKind → Context → Except CmdError State} {x : Context}
  (hx : s.contexts[c]? = some x)
include hx

/-- FNVINV has no byte step (R260). -/
theorem onContext_of_fnvinv (hk : x.kind = .fnvinv) :
    onContext s c Kind.stream? effect = .next (errorState s 7) :=
  onContext_of_mismatch hx (by simp [hk]) (by simp [hk, Kind.stream?])

/-- A kind with a byte step is admitted. -/
theorem onContext_of_stream {k : StreamKind} (hk : Kind.stream? x.kind = some k) :
    onContext s c Kind.stream? effect = conclude s (effect k x) :=
  onContext_of_allowed hx (Kind.stream?_ne_noEngine hk) hk

end

/-- Settles O22: UPDATE's row, the context check, then R85 decides between SPAN_FAULT and the fold of the span. -/
theorem updateRule : Obligations.UpdateRule := by
  refine ⟨encodedAs_row .update, fun s c => ?_⟩
  rw [exec_update]
  refine ⟨onContext_of_ge, fun x hx => ⟨onContext_of_none hx, onContext_of_fnvinv hx, fun k hk => ?_⟩⟩
  rw [onContext_of_stream hx hk]
  refine ⟨fun hfault => ?_, fun hadmitted => ?_⟩
  · rw [if_pos (mt (spanOk_iff_spanAdmitted _ _ _).mp hfault)]
    exact conclude_error_eq_errorState s _
  · rw [if_neg (not_not_intro ((spanOk_iff_spanAdmitted _ _ _).mpr hadmitted))]
    exact conclude_ok_eq_doneState s _

/-- Settles O23: UPDATEI's row, the context check, and the fold of the low bytes of A0. -/
theorem updateiRule : Obligations.UpdateiRule := by
  refine ⟨encodedAs_row .updatei, fun s c n => ?_⟩
  rw [exec_updatei]
  refine ⟨onContext_of_ge, fun x hx => ⟨onContext_of_none hx, onContext_of_fnvinv hx, fun k hk => ?_⟩⟩
  rw [onContext_of_stream hx hk]
  exact conclude_ok_eq_doneState s _

/-- Settles O24: FINAL's row, the context check, and the result in RES. -/
theorem finalRule : Obligations.FinalRule := by
  refine ⟨encodedAs_row .final, fun s c => ?_⟩
  rw [exec_final]
  refine ⟨onContext_of_ge, fun x hx => ⟨onContext_of_none hx, onContext_of_fnvinv hx, fun k hk => ?_⟩⟩
  rw [onContext_of_stream hx hk]
  exact conclude_ok_eq_doneState s _

/-! ### Commands that take a NONE context too: QUERY, RELEASE -/

/-- The kind codes of the descriptor are those of R41. -/
theorem Kind.toNat_code (k : Kind) : (Kind.code k).toNat = kindNumber k := by
  cases k <;> rfl

/-- The width code is the number of doublings from 8 bits (R114, R269). -/
theorem toNat_widthCode (W : Width) : (widthCode W).toNat = Nat.log2 (W.bits / 8) := by
  cases W <;> decide

/-- The descriptor as a sum: each field at its place, every other bit zero (R269). -/
theorem descriptor_eq_ofNat (x : Context) :
    descriptor x = BitVec.ofNat 64 (kindNumber x.kind + Nat.log2 (x.width.bits / 8) * 16 + x.refin.toNat * 64
      + x.refout.toNat * 128 + x.path.toNat * 256) := by
  apply BitVec.eq_of_toNat_eq
  rw [descriptor, toNat_zext64 (by decide)]
  iterate 5 rw [toNat_append_eq_add]
  have hkind := (Kind.code x.kind).isLt
  have hwidth := (widthCode x.width).isLt
  have hrefin := x.refin.toNat_lt
  have hrefout := x.refout.toNat_lt
  have hpath := x.path.toNat_lt
  simp only [← Kind.toNat_code, ← toNat_widthCode, BitVec.toNat_ofBool, BitVec.toNat_ofNat]
  omega

/-- QUERY of a context that does not exist raises BAD_CONTEXT. -/
theorem exec_query_of_ge {s : State} {c : Nat} (hc : s.nctx ≤ c) :
    exec (.query c) s = .next (errorState s 5) := by
  simp only [exec, execQuery, State.indexed_of_ge hc, conclude_error_eq_errorState]
  rfl

/-- QUERY of a context, NONE or not, returns its descriptor. -/
theorem exec_query_of_get {s : State} {c : Nat} {x : Context} (hx : s.contexts[c]? = some x) :
    exec (.query c) s = .next (doneState (s.setRes (descriptor x))) := by
  simp only [exec, execQuery, State.indexed_of_get hx, conclude_ok_eq_doneState]

/-- Settles O27: QUERY's row, the context's existence, and the descriptor, which is 0 at the reset values. -/
theorem queryRule : Obligations.QueryRule := by
  refine ⟨encodedAs_row .query, fun s c => ⟨exec_query_of_ge, fun x hx => ⟨?_, ?_⟩⟩⟩
  · rw [exec_query_of_get hx, descriptor_eq_ofNat]
    rfl
  · rintro rfl
    have hzero : descriptor emptyContext = 0 := by decide
    rw [exec_query_of_get hx, hzero]
    rfl

/-- RELEASE of a context that does not exist raises BAD_CONTEXT. -/
theorem exec_release_of_ge {s : State} {c : Nat} (hc : s.nctx ≤ c) :
    exec (.release c) s = .next (errorState s 5) := by
  simp only [exec, execRelease, State.indexed_of_ge hc, conclude_error_eq_errorState]
  rfl

/-- RELEASE of a context, NONE or not, gives it its reset value. -/
theorem exec_release_of_lt {s : State} {c : Nat} (hc : c < s.nctx) :
    exec (.release c) s = .next (doneState (s.setContext c Context.empty)) := by
  obtain ⟨x, hx⟩ := State.get_of_lt hc
  simp only [exec, execRelease, State.indexed_of_get hx, conclude_ok_eq_doneState]

/-- Settles O28: RELEASE's row, the context's existence, and the reset value. -/
theorem releaseRule : Obligations.ReleaseRule :=
  ⟨encodedAs_row .release, fun _ _ => ⟨exec_release_of_ge, exec_release_of_lt⟩⟩

end Sys2Proof.Machine
end

section
/-! How a command leaves STATUS, and ERRSEEN over the steps (spec/60_exceptions.md R301 to R303). -/

namespace Sys2Proof.Machine

open Sys2Proof.Certificates

/-! ### A command completes, or raises one error -/

/-- An error leaves every bit of STATUS outside ERR and ERRSEEN, the reserved ones too (R301). -/
theorem getLsbD_statusFail {k : Nat} (hk : 4 ≤ k) (hk8 : k ≠ 8) (st : Word32) (e : CmdError) :
    (statusFail st e).getLsbD k = st.getLsbD k := by
  by_cases h32 : k < 32
  · have hkept : ∀ j < 32, 4 ≤ j → (0xFFFFFFF0#32).getLsbD j = true := by decide
    have hseen : ∀ j < 32, j ≠ 8 → (0x00000100#32).getLsbD j = false := by decide
    have hcode : (e.code.setWidth 32).getLsbD k = false := by
      rw [BitVec.getLsbD_setWidth, BitVec.getLsbD_of_ge _ _ hk, Bool.and_false]
    simp only [statusFail, statusWithErr, BitVec.getLsbD_or, BitVec.getLsbD_and, hkept k h32 hk, hseen k h32 hk8, hcode,
      Bool.and_true, Bool.or_false]
  · rw [BitVec.getLsbD_of_ge _ _ (Nat.le_of_not_lt h32), BitVec.getLsbD_of_ge _ _ (Nat.le_of_not_lt h32)]

/-- A command's effect leaves STATUS; only its end writes it. -/
theorem CommandEffect.status_eq {i : Instr} {s u : State} (h : CommandEffect i s u) : u.status = s.status := by
  rcases h with rfl | ⟨v, rfl⟩ | ⟨c, x, -, -, rfl⟩ <;> rfl

/-- What ends with an error or with an effect that leaves STATUS meets R301 and R302. -/
theorem completesOrFails_conclude {s : State} {r : Except CmdError State}
    (hstatus : ∀ u, r = .ok u → u.status = s.status) : CompletesOrFails s (conclude s r) := by
  cases r with
  | error e =>
    exact ⟨s.raise e, conclude_error s e, .inr ⟨e, statusErr_fail _ _, statusErrSeen_fail _ _,
      fun k hk hk8 => getLsbD_statusFail hk hk8 _ _, rfl⟩⟩
  | ok u =>
    refine ⟨u.complete, conclude_ok s u, .inl ⟨statusErr_ok _, ?_⟩⟩
    rw [State.complete_status, statusOk_eq, hstatus u rfl]

theorem completesOrFails_exec (i : Instr) (s : State) : CompletesOrFails s (exec i s) := by
  obtain ⟨r, hexec, heffect⟩ := exec_eq_conclude i s
  rw [hexec]
  exact completesOrFails_conclude fun u hu => (heffect u hu).status_eq

theorem completesOrFails_runCommand (v : Word32) (s : State) : CompletesOrFails s (runCommand v s) := by
  unfold runCommand
  split
  · exact completesOrFails_conclude nofun
  · exact completesOrFails_exec _ s

/-- Settles O16: every command concludes with an error, or with an effect that leaves STATUS; a word that is no command
concludes with ILLEGAL_COMMAND. -/
theorem commandCompletesOrChangesOnlyStatus : Obligations.CommandCompletesOrChangesOnlyStatus := fun s =>
  ⟨fun i => completesOrFails_exec i s, fun v => completesOrFails_runCommand v s⟩

/-! ### ERRSEEN -/

/-- Completing keeps ERRSEEN, and an error sets it, so neither clears it. -/
theorem statusErrSeen_of_completesOrFails {s t : State} (h : CompletesOrFails s (.next t))
    (hs : statusErrSeen s.status = true) : statusErrSeen t.status = true := by
  obtain ⟨t', ht, ⟨-, hdone⟩ | ⟨e, -, hseen, -⟩⟩ := h <;> cases ht
  · rw [hdone, ← statusOk_eq, statusErrSeen_ok, hs]
  · exact hseen

/-- Settles O17: of the things a step can do, only the reset event and a command write STATUS; the one clears ERRSEEN,
the other does not. -/
theorem errSeenIsSticky : Obligations.ErrSeenIsSticky := by
  intro s t hstep
  cases step_cases hstep with
  | idle hp | read hp | operands hp | dmem hp => exact ⟨fun hs _ => hs, by simp [hp]⟩
  | @command _ w rest _ hp hrun =>
    have hend := completesOrFails_runCommand (lowHalf w) { s with pending := rest }
    rw [hrun] at hend
    exact ⟨fun hs _ => statusErrSeen_of_completesOrFails hend hs, by simp [hp]⟩
  | reset hp => exact ⟨fun _ hne => absurd (by simp [hp]) hne, fun _ => by simp [statusErrSeen]⟩

end Sys2Proof.Machine
end

section
/-! The round trip between commands and command words (spec/30_encoding.md R111, R117, R120, R121). A row fixes or uses
each field of the word as a whole, so a word is known from its fields. -/

namespace Sys2Proof

/-! ### A word is known from its fields -/

/-- A word with its reserved bits zero is packed from its fields (R111). -/
theorem packFields_fields {v : Word32} (hlow : field v 22 2 = 0) (hhigh : field v 27 5 = 0) :
    packFields (fieldOpc v) (fieldCtx v) (fieldWc v) (fieldRi v) (fieldRo v) (fieldDf v) (fieldN v) = v := by
  have hbit (k : Nat) : (v.getLsbD k).toNat = v.toNat / 2 ^ k % 2 := by
    rw [getLsbD_eq_div_mod]
    rcases Nat.mod_two_eq_zero_or_one (v.toNat / 2 ^ k) with h | h <;> simp [h]
  have hv := v.isLt
  rw [field_eq_div_mod] at hlow hhigh
  apply BitVec.eq_of_toNat_eq
  simp only [packFields, BitVec.toNat_ofNat, fieldOpc, fieldCtx, fieldWc, fieldN, fieldRi, fieldRo, fieldDf,
    field_eq_div_mod, hbit]
  omega

/-- Where a row fixes a whole field, a word that matches the row has the pattern's field. -/
theorem field_eq_of_match {op : Opcode} {v : Word32} (hmatch : v &&& op.mask = op.pattern) {lo len : Nat}
    (hfixed : op.mask.extractLsb' lo len = BitVec.allOnes len) : field v lo len = field op.pattern lo len := by
  rw [← hmatch, field, field, BitVec.extractLsb'_and, hfixed, BitVec.and_allOnes]

/-- Where a row fixes a flag, a word that matches the row has the pattern's flag. -/
theorem getLsbD_eq_of_match {op : Opcode} {v : Word32} (hmatch : v &&& op.mask = op.pattern) {k : Nat}
    (hfixed : op.mask.getLsbD k = true) : v.getLsbD k = op.pattern.getLsbD k := by
  rw [← hmatch, BitVec.getLsbD_and, hfixed, Bool.and_true]

/-- Every row fixes the reserved bits to zero (R117). -/
theorem Opcode.reserved_fixed (op : Opcode) :
    op.mask.extractLsb' 22 2 = BitVec.allOnes 2 ∧ op.mask.extractLsb' 27 5 = BitVec.allOnes 5 ∧
      field op.pattern 22 2 = 0 ∧ field op.pattern 27 5 = 0 := by
  cases op <;> decide

/-- The command a matching word gives is encoded with the word's own fields: those its row does not use are zero. -/
theorem encode_assembleFields_of_match {op : Opcode} {v : Word32} (hmatch : v &&& op.mask = op.pattern) :
    encode (assembleFields op v) = v := by
  obtain ⟨hlowFixed, hhighFixed, hlow, hhigh⟩ := op.reserved_fixed
  have hword := packFields_fields (v := v) (by rw [field_eq_of_match hmatch hlowFixed, hlow])
    (by rw [field_eq_of_match hmatch hhighFixed, hhigh])
  rw [← Opcode.code_eq_of_match hmatch] at hword
  have hctx (h : op.mask.extractLsb' 8 8 = BitVec.allOnes 8) : fieldCtx v = field op.pattern 8 8 :=
    field_eq_of_match hmatch h
  have hwc (h : op.mask.extractLsb' 16 3 = BitVec.allOnes 3) : fieldWc v = field op.pattern 16 3 :=
    field_eq_of_match hmatch h
  have hn (h : op.mask.extractLsb' 24 3 = BitVec.allOnes 3) : fieldN v = field op.pattern 24 3 :=
    field_eq_of_match hmatch h
  have hri (h : op.mask.getLsbD 19 = true) : fieldRi v = op.pattern.getLsbD 19 := getLsbD_eq_of_match hmatch h
  have hro (h : op.mask.getLsbD 20 = true) : fieldRo v = op.pattern.getLsbD 20 := getLsbD_eq_of_match hmatch h
  have hdf (h : op.mask.getLsbD 21 = true) : fieldDf v = op.pattern.getLsbD 21 := getLsbD_eq_of_match hmatch h
  cases op
  case nop => rwa [hctx rfl, hwc rfl, hri rfl, hro rfl, hdf rfl, hn rfl] at hword
  case cfgCrc => rwa [hdf rfl, hn rfl] at hword
  case cfgCrc32hw => rwa [hri rfl, hro rfl, hdf rfl, hn rfl] at hword
  case cfgFnv | cfgFnvinv | cfgDjb2 | cfgDjb2alt => rwa [hri rfl, hro rfl, hn rfl] at hword
  case updatei => rwa [hwc rfl, hri rfl, hro rfl, hdf rfl] at hword
  case modinv => rwa [hctx rfl, hri rfl, hro rfl, hdf rfl, hn rfl] at hword
  all_goals rwa [hwc rfl, hri rfl, hro rfl, hdf rfl, hn rfl] at hword

/-! ### From words to commands and back -/

/-- A field of a word fits the field's bits. -/
theorem field_lt (v : Word32) (lo len : Nat) : field v lo len < 2 ^ len := (v.extractLsb' lo len).isLt

/-- The fields of a word make a well-formed command (R111). -/
theorem wellFormed_assembleFields (op : Opcode) (v : Word32) : (assembleFields op v).WellFormed := by
  have hctx : fieldCtx v < 256 := field_lt v 8 8
  have hwc : fieldWc v < 8 := field_lt v 16 3
  have hn : fieldN v < 8 := field_lt v 24 3
  cases op <;> simp [assembleFields, Instr.WellFormed, Instr.wellFormed, ctxFits, wcFits, countFits, hctx, hwc, hn]

/-- Settles O2: a word that decodes matches a row, and the row's command, made of the word's fields, is encoded as the
word. -/
theorem encodeOfDecode : Obligations.EncodeOfDecode := by
  intro v i hdec
  obtain ⟨op, hmatch, rfl⟩ := decode_eq_ok_iff.mp hdec
  exact ⟨wellFormed_assembleFields op v, encode_assembleFields_of_match hmatch⟩

/-! ### From commands to words and back -/

/-- The fields of a well-formed command's word are the command's (R111). -/
theorem assembleFields_encode {i : Instr} (hi : i.WellFormed) : assembleFields i.opcode (encode i) = i := by
  have hopc := i.opcode.code_lt
  cases i
  all_goals
    simp only [Instr.WellFormed, Instr.wellFormed, ctxFits, wcFits, countFits, Bool.and_eq_true, decide_eq_true_eq]
      at hi
    simp only [encode, Instr.opcode, assembleFields] at hopc ⊢
  all_goals
    simp only [fieldCtx_packFields, fieldWc_packFields, fieldN_packFields, fieldRi_packFields, fieldRo_packFields,
      fieldDf_packFields, hopc, hi, Nat.zero_lt_succ]

/-- The word of row `op` that has the fields of `v` the row uses, and the pattern in place of the others. -/
def rowWord (op : Opcode) (v : Word32) : Word32 := (v &&& ~~~op.mask) ||| op.pattern

/-- It matches the row: a pattern lies inside its mask (R120). -/
theorem rowWord_and_mask (op : Opcode) (v : Word32) : rowWord op v &&& op.mask = op.pattern := by
  have hpattern : op.pattern &&& op.mask = op.pattern := by cases op <;> rfl
  ext k hk
  have hbit := congrArg (fun w : Word32 => w[k]) hpattern
  simp only [BitVec.getElem_and] at hbit
  simp only [rowWord, BitVec.getElem_and, BitVec.getElem_or, BitVec.getElem_not, Bool.and_or_distrib_right, hbit]
  simp

/-- It keeps every flag the row leaves open. -/
theorem getLsbD_rowWord {op : Opcode} (v : Word32) {k : Nat} (hmask : op.mask.getLsbD k = false)
    (hpattern : op.pattern.getLsbD k = false) : (rowWord op v).getLsbD k = v.getLsbD k := by
  rw [rowWord, BitVec.getLsbD_or, BitVec.getLsbD_and, BitVec.getLsbD_not, hmask, hpattern]
  by_cases hk : k < 32
  · simp [hk]
  · simp [BitVec.getLsbD_of_ge v k (Nat.le_of_not_lt hk)]

/-- It keeps every field the row leaves open. -/
theorem field_rowWord {op : Opcode} (v : Word32) {lo len : Nat} (hmask : op.mask.extractLsb' lo len = 0#len)
    (hpattern : op.pattern.extractLsb' lo len = 0#len) : field (rowWord op v) lo len = field v lo len := by
  refine congrArg BitVec.toNat (BitVec.eq_of_getElem_eq fun k hk => ?_)
  have hbit {w : Word32} (h : w.extractLsb' lo len = 0#len) : w.getLsbD (lo + k) = false := by
    rw [← BitVec.getElem_extractLsb' hk, h, BitVec.getElem_zero]
  rw [BitVec.getElem_extractLsb', BitVec.getElem_extractLsb', getLsbD_rowWord v (hbit hmask) (hbit hpattern)]

/-- It gives the command that `v` gives: a row fixes no bit of a field it uses. -/
theorem assembleFields_rowWord (op : Opcode) (v : Word32) : assembleFields op (rowWord op v) = assembleFields op v := by
  have hctx (h : op.mask.extractLsb' 8 8 = 0#8) (h' : op.pattern.extractLsb' 8 8 = 0#8) :
      fieldCtx (rowWord op v) = fieldCtx v := field_rowWord v h h'
  have hwc (h : op.mask.extractLsb' 16 3 = 0#3) (h' : op.pattern.extractLsb' 16 3 = 0#3) :
      fieldWc (rowWord op v) = fieldWc v := field_rowWord v h h'
  have hn (h : op.mask.extractLsb' 24 3 = 0#3) (h' : op.pattern.extractLsb' 24 3 = 0#3) :
      fieldN (rowWord op v) = fieldN v := field_rowWord v h h'
  have hri (h : op.mask.getLsbD 19 = false) (h' : op.pattern.getLsbD 19 = false) :
      fieldRi (rowWord op v) = fieldRi v := getLsbD_rowWord v h h'
  have hro (h : op.mask.getLsbD 20 = false) (h' : op.pattern.getLsbD 20 = false) :
      fieldRo (rowWord op v) = fieldRo v := getLsbD_rowWord v h h'
  have hdf (h : op.mask.getLsbD 21 = false) (h' : op.pattern.getLsbD 21 = false) :
      fieldDf (rowWord op v) = fieldDf v := getLsbD_rowWord v h h'
  cases op <;> simp only [assembleFields]
  case cfgCrc => rw [hctx rfl rfl, hwc rfl rfl, hri rfl rfl, hro rfl rfl]
  case cfgCrc32hw => rw [hctx rfl rfl, hwc rfl rfl]
  case cfgFnv | cfgFnvinv | cfgDjb2 | cfgDjb2alt => rw [hctx rfl rfl, hwc rfl rfl, hdf rfl rfl]
  case updatei => rw [hctx rfl rfl, hn rfl rfl]
  case modinv => rw [hwc rfl rfl]
  all_goals rw [hctx rfl rfl]

/-- Settles O1: the command's word has the command's fields, so it is the row's word for them, which matches the row. -/
theorem decodeOfEncode : Obligations.DecodeOfEncode := by
  intro i hi
  have hcmd := assembleFields_encode hi
  have hword : encode i = rowWord i.opcode (encode i) := by
    conv_lhs => rw [← hcmd, ← assembleFields_rowWord, encode_assembleFields_of_match (rowWord_and_mask _ _)]
  have hmatch : encode i &&& i.opcode.mask = i.opcode.pattern := hword ▸ rowWord_and_mask _ _
  exact decode_eq_ok_iff.mpr ⟨i.opcode, hmatch, hcmd⟩

/-- Settles O5: each of the seven words decodes by computation. -/
theorem encodingExamplesDecode : Obligations.EncodingExamplesDecode := by
  unfold Obligations.EncodingExamplesDecode
  decide

end Sys2Proof
end

section
/-! The contexts the rules leave (spec/10_state.md R43, R48): each CFG_* command writes a well-formed context from
operands that fit, and writing REG with a value that fits keeps a configured context well formed. -/

namespace Sys2Proof.Machine

/-! ### The step functions -/

/-- A byte step's value fits the context's width. -/
theorem fits_stepByte {k : StreamKind} {x : Context} (hk : Kind.stream? x.kind = some k)
    (hwidth : x.kind = .crc32hw → x.width = .w32) (r : Word64) (b : Byte) : fits (stepByte k x r b) x.width = true := by
  cases k with
  | crc | fnv | djb2 | djb2alt => exact fits_zext64 _
  | crc32hw =>
    have hkind : x.kind = .crc32hw := by cases hx : x.kind <;> simp_all [Kind.stream?]
    rw [hwidth hkind]
    exact fits_zext64 (W := .w32) _

/-- So does the register after a message, if it fitted before. -/
theorem fits_foldMessage {k : StreamKind} {x : Context} (hk : Kind.stream? x.kind = some k)
    (hwidth : x.kind = .crc32hw → x.width = .w32) {r : Word64} (hr : fits r x.width = true) (m : List Byte) :
    fits (foldMessage k x r m) x.width = true := by
  induction m generalizing r with
  | nil => exact hr
  | cons b rest ih => exact ih (fits_stepByte hk hwidth r b)

/-! ### The operands of the CFG_* commands -/

theorem fits_zero (W : Width) : fits 0 W = true := by cases W <;> rfl

/-- The default basis and prime fit their width (R213, R214). -/
theorem fits_of_fnvDefaults {W : Width} {basis prime : Word64} (h : fnvDefaults W = some (basis, prime)) :
    fits basis W = true ∧ fits prime W = true := by
  cases W with
  | w8 | w16 => cases h
  | w32 | w64 => cases h; decide

/-- The operands CFG_FNV and CFG_FNVINV accept fit their width (R212). -/
theorem fits_of_fnvOperands {wc : Nat} {df : Bool} {s : State} {W : Width} {basis prime : Word64}
    (h : fnvOperands wc df s = .ok (W, basis, prime)) : fits basis W = true ∧ fits prime W = true := by
  unfold fnvOperands at h
  split at h
  · cases h
  · split at h
    · split at h <;> cases h
      exact fits_of_fnvDefaults ‹_›
    · split at h <;> cases h
      exact not_not.mp ‹_›

/-- The default basis fits its width (R243). -/
theorem fits_of_djb2Default {W : Width} {basis : Word64} (h : djb2Default W = some basis) : fits basis W = true := by
  cases W with
  | w8 => cases h
  | w16 | w32 | w64 => cases h; decide

/-- The basis CFG_DJB2 and CFG_DJB2ALT accept fits its width (R244). -/
theorem fits_of_djb2Operands {wc : Nat} {df : Bool} {s : State} {W : Width} {basis : Word64}
    (h : djb2Operands wc df s = .ok (W, basis)) : fits basis W = true := by
  unfold djb2Operands at h
  split at h
  · cases h
  · split at h
    · split at h <;> cases h
      exact fits_of_djb2Default ‹_›
    · split at h <;> cases h
      exact not_not.mp ‹_›

/-- A path that is selected is the hardware exactly when the hardware is present (R195). -/
theorem eq_of_selectPath {p : Params} {path : Bool} (h : selectPath p = .ok path) : path = p.hwcrcPresent := by
  unfold selectPath at h
  split at h
  · cases h
    exact ‹p.hwcrcPresent = true›.symm
  · split at h <;> cases h
    simp_all

/-! ### Well-formed contexts

What is to say of a new context is that its six W-bit fields fit and that it meets its own kind's row of R48; the rows
of the other kinds say nothing of it, and its own row holds by computation but where it speaks of PINV or of the
parameters. -/

theorem Context.wf_empty (p : Params) : Context.Wf p Context.empty :=
  ⟨⟨rfl, rfl, rfl, rfl, rfl, rfl⟩, rfl, rfl, rfl, rfl, rfl, rfl⟩

theorem Context.wf_crcContext (p : Params) {W : Width} (ri ro : Bool) {poly init xorout : Word64}
    (hpoly : fits poly W = true) (hinit : fits init W = true) (hxorout : fits xorout W = true) :
    Context.Wf p (crcContext W ri ro poly init xorout) :=
  ⟨⟨hinit, hpoly, hinit, hxorout, fits_zero W, fits_zero W⟩, rfl, rfl, rfl, rfl, rfl, rfl⟩

theorem Context.wf_crc32hwContext (p : Params) :
    Context.Wf p (crc32hwContext (HwPoly.value p.hwcrcPoly) p.hwcrcPresent) := by
  have hones : fits 0xFFFFFFFF .w32 = true := by decide
  exact ⟨⟨hones, fits_zext64 (W := .w32) _, hones, hones, fits_zero .w32, fits_zero .w32⟩, rfl, rfl,
    decide_eq_true fun _ => ⟨rfl, rfl, rfl, rfl, rfl, rfl, rfl, rfl, rfl⟩, rfl, rfl, rfl⟩

theorem Context.wf_fnvContext (p : Params) {W : Width} {basis prime : Word64} (hbasis : fits basis W = true)
    (hprime : fits prime W = true) : Context.Wf p (fnvContext W basis prime) :=
  ⟨⟨hbasis, fits_zero W, hbasis, fits_zero W, hprime, fits_zero W⟩, rfl, rfl, rfl, rfl, rfl, rfl⟩

theorem Context.wf_fnvinvContext (p : Params) {W : Width} {basis prime : Word64} (hbasis : fits basis W = true)
    (hprime : fits prime W = true) (hodd : prime.toNat % 2 = 1) : Context.Wf p (fnvinvContext W basis prime) := by
  have hbit : prime.getLsbD 0 = true := (getElem_zero_eq_mod_two prime).trans (decide_eq_true hodd)
  exact ⟨⟨hbasis, fits_zero W, hbasis, fits_zero W, hprime, fits_zext64 _⟩, rfl, rfl, rfl, rfl,
    decide_eq_true fun _ => ⟨rfl, rfl, rfl, rfl, rfl, hbit, rfl⟩, rfl⟩

theorem Context.wf_djb2Context (p : Params) {W : Width} {basis : Word64} (hbasis : fits basis W = true) :
    Context.Wf p (djb2Context W basis) :=
  ⟨⟨hbasis, fits_zero W, hbasis, fits_zero W, fits_zero W, fits_zero W⟩, rfl, rfl, rfl, rfl, rfl, rfl⟩

theorem Context.wf_djb2altContext (p : Params) {W : Width} {basis : Word64} (hbasis : fits basis W = true) :
    Context.Wf p (djb2altContext W basis) :=
  ⟨⟨hbasis, fits_zero W, hbasis, fits_zero W, fits_zero W, fits_zero W⟩, rfl, rfl, rfl, rfl, rfl, rfl⟩

theorem Context.Wf.fits_reg {p : Params} {x : Context} (h : Context.Wf p x) : fits x.reg x.width = true := by
  obtain ⟨⟨hreg, -⟩, -⟩ := h
  exact hreg

theorem Context.Wf.fits_init {p : Params} {x : Context} (h : Context.Wf p x) : fits x.init x.width = true := by
  obtain ⟨⟨-, -, hinit, -⟩, -⟩ := h
  exact hinit

/-- Writing REG with a value that fits keeps a configured context well formed: only NONE's row of R48 speaks of REG. -/
theorem Context.Wf.with_reg {p : Params} {x : Context} (h : Context.Wf p x) (hk : x.kind ≠ .noEngine) {v : Word64}
    (hv : fits v x.width = true) : Context.Wf p { x with reg := v } := by
  obtain ⟨⟨-, hfits⟩, -, hrows⟩ := h
  exact ⟨⟨hv, hfits⟩, by simp [Context.noEngineRow, hk], hrows⟩

/-- A CRC32HW context has 32 bits (R190). -/
theorem Context.Wf.crc32hw_width {p : Params} {x : Context} (h : Context.Wf p x) (hk : x.kind = .crc32hw) :
    x.width = .w32 := by
  obtain ⟨-, -, -, hrow, -⟩ := h
  exact ((of_decide_eq_true hrow) hk).1

/-- Feeding a message to a well-formed context keeps it well formed. -/
theorem Context.Wf.with_message {p : Params} {x : Context} (h : Context.Wf p x) {k : StreamKind}
    (hk : Kind.stream? x.kind = some k) (m : List Byte) :
    Context.Wf p { x with reg := foldMessage k x x.reg m } :=
  h.with_reg (Kind.stream?_ne_noEngine hk) (fits_foldMessage hk h.crc32hw_width h.fits_reg m)

end Sys2Proof.Machine
end

section
/-! What a command decides, said once for all commands (spec/20_memory.md R96 to R99; spec/60_exceptions.md R300 to
R304): an error or an effect, from its operands, the parameters, DMEM and the one context it names. -/

namespace Sys2Proof.Machine

open Sys2Proof.Certificates

/-! ### BAD_CONTEXT -/

/-- Settles O18: every command that names a context looks it up before any other check. -/
theorem badContextComesFirst : Obligations.BadContextComesFirst := by
  intro i s c hc hge
  cases i <;> cases hc
  case cfgCrc => exact (exec_cfgCrc_of_ge _ _ _ hge).trans (congrArg _ (s.raise_eq_errorState _))
  case cfgCrc32hw => exact (exec_cfgCrc32hw_of_ge _ hge).trans (congrArg _ (s.raise_eq_errorState _))
  case cfgFnv => exact exec_cfgFnv_of_ge _ _ hge
  case cfgFnvinv => exact exec_cfgFnvinv_of_ge _ _ hge
  case cfgDjb2 | cfgDjb2alt => exact configureDjb2_of_ge _ hge
  case reset => exact exec_reset _ s ▸ onContext_of_ge hge
  case update => exact exec_update _ s ▸ onContext_of_ge hge
  case updatei => exact exec_updatei _ _ s ▸ onContext_of_ge hge
  case final => exact exec_final _ s ▸ onContext_of_ge hge
  case unstep => exact exec_unstep_of_error (State.checkContext_of_ge _ hge)
  case loadreg => exact exec_loadreg _ s ▸ onContext_of_ge hge
  case readreg => exact exec_readreg _ s ▸ onContext_of_ge hge
  case query => exact exec_query_of_ge hge
  case release => exact exec_release_of_ge hge

/-! ### Effects and decisions -/

/-- What a command that completes does: nothing, a value in RES, or a new value of a context. -/
inductive Effect where
  | keep
  | result (v : Word64)
  | context (c : Nat) (x : Context)

/-- The state after an effect. -/
def Effect.apply (s : State) : Effect → State
  | .keep => s
  | .result v => s.setRes v
  | .context c x => s.setContext c x

/-- The effects a command may have: a value for the commands that return one (R37), else nothing or the context it
names (R40). -/
def Effect.AllowedFor (i : Instr) : Effect → Prop
  | .keep => returnsValue i = false
  | .result _ => returnsValue i = true
  | .context c _ => returnsValue i = false ∧ i.ctx? = some c

/-- The effect writes no ill-formed context where the contexts are well formed. -/
def Effect.KeepsWf (s : State) : Effect → Prop
  | .keep => True
  | .result _ => True
  | .context _ x => (∀ y ∈ s.contexts, Context.Wf s.params y) → Context.Wf s.params x

/-- The two states agree in all that the command reads (R99). -/
structure SameInputs (i : Instr) (s s' : State) : Prop where
  params : s'.params = s.params
  a0 : s'.a0 = s.a0
  a1 : s'.a1 = s.a1
  a2 : s'.a2 = s.a2
  dmem : s'.dmem = s.dmem
  context : ∀ c, i.ctx? = some c → s'.contexts[c]? = s.contexts[c]?

theorem SameInputs.refl (i : Instr) (s : State) : SameInputs i s s := ⟨rfl, rfl, rfl, rfl, rfl, fun _ _ => rfl⟩

/-- The command raises the error in every state that agrees with `s` in what it reads. -/
structure Raises (i : Instr) (s : State) (e : CmdError) : Prop where
  exec_eq : ∀ s', SameInputs i s s' → exec i s' = .next (errorState s' (e.code.setWidth 32))
  mayRaise : mayRaise e i = true

/-- The command has the effect in every state that agrees with `s` in what it reads. -/
structure Completes (i : Instr) (s : State) (f : Effect) : Prop where
  exec_eq : ∀ s', SameInputs i s s' → exec i s' = .next (doneState (f.apply s'))
  allowed : f.AllowedFor i
  keepsWf : f.KeepsWf s

/-- The command decides on an error or on an effect. -/
def Decides (i : Instr) (s : State) : Prop := (∃ e, Raises i s e) ∨ ∃ f, Completes i s f

/-! ### The same inputs give the same operands -/

section
variable {i : Instr} {s s' : State} (h : SameInputs i s s')
include h

theorem SameInputs.get {c : Nat} {x : Context} (hc : i.ctx? = some c) (hx : s.contexts[c]? = some x) :
    s'.contexts[c]? = some x := (h.context c hc).trans hx

theorem SameInputs.lt {c : Nat} (hc : i.ctx? = some c) (hlt : c < s.nctx) : c < s'.nctx := by
  obtain ⟨x, hx⟩ := State.get_of_lt hlt
  exact State.lt_of_get (h.get hc hx)

theorem SameInputs.ge {c : Nat} (hc : i.ctx? = some c) (hge : s.nctx ≤ c) : s'.nctx ≤ c :=
  List.getElem?_eq_none_iff.mp ((h.context c hc).trans (List.getElem?_eq_none hge))

theorem SameInputs.fnvOperands_eq (wc : Nat) (df : Bool) : fnvOperands wc df s' = fnvOperands wc df s := by
  simp only [fnvOperands, h.a0, h.a1]

theorem SameInputs.djb2Operands_eq (wc : Nat) (df : Bool) : djb2Operands wc df s' = djb2Operands wc df s := by
  simp only [djb2Operands, h.a0]

theorem SameInputs.spanBytes_eq (a n : Nat) : s'.spanBytes a n = s.spanBytes a n := by
  simp only [State.spanBytes, State.readDmem_congr h.dmem]

end

/-! ### The errors of the shared checks -/

/-- The operands of CFG_FNV and CFG_FNVINV are refused with UNSUPPORTED_WIDTH only (R212). -/
theorem fnvOperands_error {wc : Nat} {df : Bool} {s : State} {e : CmdError} (h : fnvOperands wc df s = .error e) :
    e = .unsupportedWidth := by
  unfold fnvOperands at h
  split at h
  · cases h
    rfl
  · split at h <;> split at h <;> cases h <;> rfl

/-- So are those of CFG_DJB2 and CFG_DJB2ALT (R244). -/
theorem djb2Operands_error {wc : Nat} {df : Bool} {s : State} {e : CmdError} (h : djb2Operands wc df s = .error e) :
    e = .unsupportedWidth := by
  unfold djb2Operands at h
  split at h
  · cases h
    rfl
  · split at h <;> split at h <;> cases h <;> rfl

/-- Where there is no path the error is UNSUPPORTED_HARDWARE (R195). -/
theorem selectPath_error {p : Params} {e : CmdError} (h : selectPath p = .error e) : e = .unsupportedHardware := by
  unfold selectPath at h
  split at h
  · cases h
  · split at h <;> cases h
    rfl

/-! ### The decision, by the shape of the command -/

/-- A command that names a context decides, if it does where the context exists. -/
theorem decides_of_get {i : Instr} {s : State} {c : Nat} (hc : i.ctx? = some c)
    (hget : ∀ x, s.contexts[c]? = some x → Decides i s) : Decides i s := by
  rcases Nat.lt_or_ge c s.nctx with hlt | hge
  · obtain ⟨x, hx⟩ := State.get_of_lt hlt
    exact hget x hx
  · exact .inl ⟨.badContext, fun s' h => badContextComesFirst i s' c hc (h.ge hc hge),
      by simp [mayRaise, hc]⟩

/-- A command of the shared shape decides: the check of R261 raises its errors, and past the check `decision` says what
the command does. -/
theorem decides_of_onContext {α : Type} {i : Instr} {s : State} {c : Nat} {allow : Kind → Option α}
    (decision : α → Context → Except CmdError Effect) (hc : i.ctx? = some c)
    (hexec : ∀ s', SameInputs i s s' →
      exec i s' = onContext s' c allow fun k x => (decision k x).map (Effect.apply s'))
    (hnone : mayRaise .notConfigured i = true)
    (hmismatch : ∀ k, allow k = none → mayRaise .kindMismatch i = true)
    (herror : ∀ k x e, decision k x = .error e → mayRaise e i = true)
    (hok : ∀ k x f, s.contexts[c]? = some x → x.kind ≠ .noEngine → allow x.kind = some k →
      decision k x = .ok f → f.AllowedFor i ∧ f.KeepsWf s) : Decides i s := by
  refine decides_of_get hc fun x hx => ?_
  by_cases hk : x.kind = .noEngine
  · exact .inl ⟨.notConfigured, fun s' h => hexec s' h ▸ onContext_of_none (h.get hc hx) hk, hnone⟩
  cases ha : allow x.kind with
  | none =>
    exact .inl ⟨.kindMismatch, fun s' h => hexec s' h ▸ onContext_of_mismatch (h.get hc hx) hk ha, hmismatch _ ha⟩
  | some k =>
    have hdecided : ∀ s', SameInputs i s s' → exec i s' = conclude s' ((decision k x).map (Effect.apply s')) :=
      fun s' h => (hexec s' h).trans (onContext_of_allowed (h.get hc hx) hk ha)
    cases hd : decision k x with
    | error e =>
      exact .inl ⟨e, fun s' h => (hdecided s' h).trans (by rw [hd]; exact conclude_error_eq_errorState s' e),
        herror k x e hd⟩
    | ok f =>
      obtain ⟨hof, hwf⟩ := hok k x f hx hk ha hd
      exact .inr ⟨f, fun s' h => (hdecided s' h).trans (by rw [hd]; exact conclude_ok_eq_doneState s' _), hof, hwf⟩

/-- Both DJB2 configurations decide by the operands' check. -/
theorem decides_of_configureDjb2 {i : Instr} {s : State} {c wc : Nat} {df : Bool} {variant : Width → Word64 → Context}
    (hc : i.ctx? = some c) (hexec : ∀ s', exec i s' = configureDjb2 variant c wc df s')
    (hwidth : mayRaise .unsupportedWidth i = true) (hvalue : returnsValue i = false)
    (hwf : ∀ W basis, fits basis W = true → Context.Wf s.params (variant W basis)) : Decides i s := by
  refine decides_of_get hc fun x hx => ?_
  have hlt := State.lt_of_get hx
  cases hops : djb2Operands wc df s with
  | error e =>
    obtain rfl := djb2Operands_error hops
    exact .inl ⟨.unsupportedWidth, fun s' h => (hexec s').trans
      (configureDjb2_of_refused variant (h.lt hc hlt) ((h.djb2Operands_eq wc df).trans hops)), hwidth⟩
  | ok operands =>
    obtain ⟨W, basis⟩ := operands
    exact .inr ⟨.context c (variant W basis), fun s' h => (hexec s').trans
      (configureDjb2_of_accepted variant (h.lt hc hlt) ((h.djb2Operands_eq wc df).trans hops)), ⟨hvalue, hc⟩,
      fun _ => hwf W basis (fits_of_djb2Operands hops)⟩

/-! ### The decision of every command, by the lemmas that say how it ends -/

theorem decides_nop (s : State) : Decides .nop s :=
  .inr ⟨.keep, fun s' _ => conclude_ok_eq_doneState s' s', rfl, trivial⟩

theorem decides_cfgCrc (c wc : Nat) (ri ro : Bool) (s : State) : Decides (.cfgCrc c wc ri ro) s := by
  refine decides_of_get rfl fun x hx => ?_
  have hlt := State.lt_of_get hx
  cases hW : widthOf wc with
  | none =>
    exact .inl ⟨.unsupportedWidth, fun s' h => (exec_cfgCrc_of_no_width ri ro (h.lt rfl hlt) hW).trans
      (congrArg _ (s'.raise_eq_errorState _)), rfl⟩
  | some W =>
    by_cases hfits : s.a0.toNat < 2 ^ W.bits ∧ s.a1.toNat < 2 ^ W.bits ∧ s.a2.toNat < 2 ^ W.bits
    · refine .inr ⟨.context c (crcContext W ri ro s.a0 s.a1 s.a2), fun s' h => ?_, ⟨rfl, rfl⟩, fun _ => ?_⟩
      · rw [exec_cfgCrc_of_width ri ro (h.lt rfl hlt) hW, h.a0, h.a1, h.a2, if_pos hfits]
        exact congrArg _ (State.complete_eq_doneState _)
      · simp only [← fits_eq_true_iff] at hfits
        obtain ⟨hpoly, hinit, hxorout⟩ := hfits
        exact Context.wf_crcContext _ ri ro hpoly hinit hxorout
    · refine .inl ⟨.unsupportedWidth, fun s' h => ?_, rfl⟩
      rw [exec_cfgCrc_of_width ri ro (h.lt rfl hlt) hW, h.a0, h.a1, h.a2, if_neg hfits]
      exact congrArg _ (s'.raise_eq_errorState _)

theorem decides_cfgCrc32hw (c wc : Nat) (s : State) : Decides (.cfgCrc32hw c wc) s := by
  refine decides_of_get rfl fun x hx => ?_
  have hlt := State.lt_of_get hx
  by_cases hwc : wc = 2
  · subst hwc
    cases hpath : selectPath s.params with
    | error e =>
      obtain rfl := selectPath_error hpath
      exact .inl ⟨.unsupportedHardware, fun s' h => (exec_cfgCrc32hw_of_no_path (h.lt rfl hlt)
        (h.params ▸ hpath)).trans (congrArg _ (s'.raise_eq_errorState _)), rfl⟩
    | ok path =>
      obtain rfl := eq_of_selectPath hpath
      refine .inr ⟨.context c (crc32hwContext (HwPoly.value s.params.hwcrcPoly) s.params.hwcrcPresent), fun s' h => ?_,
        ⟨rfl, rfl⟩, fun _ => Context.wf_crc32hwContext s.params⟩
      rw [exec_cfgCrc32hw_of_path (h.lt rfl hlt) (h.params ▸ hpath), h.params]
      exact congrArg _ (State.complete_eq_doneState _)
  · exact .inl ⟨.unsupportedWidth, fun s' h => (exec_cfgCrc32hw_of_ne (h.lt rfl hlt) hwc).trans
      (congrArg _ (s'.raise_eq_errorState _)), rfl⟩

theorem decides_cfgFnv (c wc : Nat) (df : Bool) (s : State) : Decides (.cfgFnv c wc df) s := by
  refine decides_of_get rfl fun x hx => ?_
  have hlt := State.lt_of_get hx
  cases hops : fnvOperands wc df s with
  | error e =>
    obtain rfl := fnvOperands_error hops
    exact .inl ⟨.unsupportedWidth, fun s' h =>
      exec_cfgFnv_of_refused (h.lt rfl hlt) ((h.fnvOperands_eq wc df).trans hops), rfl⟩
  | ok operands =>
    obtain ⟨W, basis, prime⟩ := operands
    obtain ⟨hbasis, hprime⟩ := fits_of_fnvOperands hops
    exact .inr ⟨.context c (fnvContext W basis prime), fun s' h =>
      exec_cfgFnv_of_accepted (h.lt rfl hlt) ((h.fnvOperands_eq wc df).trans hops), ⟨rfl, rfl⟩,
      fun _ => Context.wf_fnvContext _ hbasis hprime⟩

theorem decides_cfgFnvinv (c wc : Nat) (df : Bool) (s : State) : Decides (.cfgFnvinv c wc df) s := by
  refine decides_of_get rfl fun x hx => ?_
  have hlt := State.lt_of_get hx
  cases hops : fnvOperands wc df s with
  | error e =>
    obtain rfl := fnvOperands_error hops
    exact .inl ⟨.unsupportedWidth, fun s' h =>
      exec_cfgFnvinv_of_refused (h.lt rfl hlt) ((h.fnvOperands_eq wc df).trans hops), rfl⟩
  | ok operands =>
    obtain ⟨W, basis, prime⟩ := operands
    obtain ⟨hbasis, hprime⟩ := fits_of_fnvOperands hops
    have hexec (s' : State) (h : SameInputs (.cfgFnvinv c wc df) s s') :=
      exec_cfgFnvinv_of_accepted (h.lt rfl hlt) ((h.fnvOperands_eq wc df).trans hops)
    by_cases hodd : prime.toNat % 2 = 1
    · exact .inr ⟨.context c (fnvinvContext W basis prime), fun s' h => (hexec s' h).trans (if_pos hodd), ⟨rfl, rfl⟩,
        fun _ => Context.wf_fnvinvContext _ hbasis hprime hodd⟩
    · exact .inl ⟨.nonInvertible, fun s' h => (hexec s' h).trans (if_neg hodd), rfl⟩

theorem decides_cfgDjb2 (c wc : Nat) (df : Bool) (s : State) : Decides (.cfgDjb2 c wc df) s :=
  decides_of_configureDjb2 rfl (exec_cfgDjb2 c wc df) rfl rfl fun _ _ => Context.wf_djb2Context _

theorem decides_cfgDjb2alt (c wc : Nat) (df : Bool) (s : State) : Decides (.cfgDjb2alt c wc df) s :=
  decides_of_configureDjb2 rfl (exec_cfgDjb2alt c wc df) rfl rfl fun _ _ => Context.wf_djb2altContext _

theorem decides_reset (c : Nat) (s : State) : Decides (.reset c) s := by
  refine decides_of_onContext (fun _ x => .ok (.context c { x with reg := x.init })) rfl
    (fun s' _ => exec_reset c s') rfl (fun _ ha => nomatch ha)
    (fun _ _ _ he => nomatch he) fun k x f hx hk _ hf => ?_
  cases hf
  exact ⟨⟨rfl, rfl⟩, fun hwf =>
    have hx := hwf x (List.mem_of_getElem? hx)
    hx.with_reg hk hx.fits_init⟩

theorem decides_update (c : Nat) (s : State) : Decides (.update c) s := by
  refine decides_of_onContext (allow := Kind.stream?) (fun k x =>
      if ¬ spanOk s.params s.a0.toNat s.a1.toNat then .error .spanFault
      else .ok (.context c { x with reg := foldMessage k x x.reg (s.spanBytes s.a0.toNat s.a1.toNat) }))
    rfl (fun s' h => ?_) rfl (fun _ _ => rfl) (fun k x e he => ?_) fun k x f hx _ hk hf => ?_
  · rw [exec_update, h.params, h.a0, h.a1, h.spanBytes_eq]
    split <;> rfl
  · split at he <;> cases he
    rfl
  · split at hf <;> cases hf
    exact ⟨⟨rfl, rfl⟩, fun hwf => (hwf x (List.mem_of_getElem? hx)).with_message hk _⟩

theorem decides_updatei (c n : Nat) (s : State) : Decides (.updatei c n) s := by
  refine decides_of_onContext
    (fun k x => .ok (.context c { x with reg := foldMessage k x x.reg (operandBytes s.a0 (n + 1)) }))
    rfl (fun s' h => h.a0 ▸ exec_updatei c n s') rfl (fun _ _ => rfl)
    (fun _ _ _ he => nomatch he) fun k x f hx _ hk hf => ?_
  cases hf
  exact ⟨⟨rfl, rfl⟩, fun hwf => (hwf x (List.mem_of_getElem? hx)).with_message hk _⟩

theorem decides_final (c : Nat) (s : State) : Decides (.final c) s := by
  refine decides_of_onContext (fun k x => .ok (.result (finalValue k x x.reg)))
    rfl (fun s' _ => exec_final c s') rfl (fun _ _ => rfl)
    (fun _ _ _ he => nomatch he) fun k x f _ _ _ hf => ?_
  cases hf
  exact ⟨rfl, trivial⟩

/-- UNSTEP has the shared shape too (R218). -/
theorem exec_unstep (c : Nat) (s : State) :
    exec (.unstep c) s = onContext s c Kind.inverse? fun _ x => .ok (s.setReg c x (unstepReg x s.a0)) := by
  simp only [exec, execUnstep, onContext]
  cases s.checkContext c Kind.inverse? <;> rfl

theorem decides_unstep (c : Nat) (s : State) : Decides (.unstep c) s := by
  refine decides_of_onContext (fun _ x => .ok (.context c { x with reg := unstepReg x s.a0 }))
    rfl (fun s' h => h.a0 ▸ exec_unstep c s') rfl (fun _ _ => rfl)
    (fun _ _ _ he => nomatch he) fun k x f hx hk _ hf => ?_
  cases hf
  exact ⟨⟨rfl, rfl⟩, fun hwf => (hwf x (List.mem_of_getElem? hx)).with_reg hk (fits_zext64 _)⟩

theorem decides_loadreg (c : Nat) (s : State) : Decides (.loadreg c) s := by
  refine decides_of_onContext (allow := Kind.anyEngine) (fun _ x =>
      if ¬ fits s.a0 x.width then .error .unsupportedWidth else .ok (.context c { x with reg := s.a0 }))
    rfl (fun s' h => ?_) rfl (fun _ ha => nomatch ha) (fun k x e he => ?_) fun k x f hx hk _ hf => ?_
  · rw [exec_loadreg, h.a0]
    congr
    funext k x
    split <;> rfl
  · split at he <;> cases he
    rfl
  · split at hf <;> cases hf
    exact ⟨⟨rfl, rfl⟩, fun hwf => (hwf x (List.mem_of_getElem? hx)).with_reg hk (not_not.mp ‹_›)⟩

theorem decides_readreg (c : Nat) (s : State) : Decides (.readreg c) s := by
  refine decides_of_onContext (fun _ x => .ok (.result x.reg))
    rfl (fun s' _ => exec_readreg c s') rfl (fun _ ha => nomatch ha)
    (fun _ _ _ he => nomatch he) fun k x f _ _ _ hf => ?_
  cases hf
  exact ⟨rfl, trivial⟩

theorem decides_query (c : Nat) (s : State) : Decides (.query c) s :=
  decides_of_get rfl fun x hx =>
    .inr ⟨.result (descriptor x), fun _ h => exec_query_of_get (h.get rfl hx), rfl, trivial⟩

theorem decides_release (c : Nat) (s : State) : Decides (.release c) s :=
  decides_of_get rfl fun _ hx => .inr ⟨.context c Context.empty,
    fun _ h => exec_release_of_lt (h.lt rfl (State.lt_of_get hx)), ⟨rfl, rfl⟩, fun _ => Context.wf_empty s.params⟩

theorem decides_modinv (wc : Nat) (s : State) : Decides (.modinv wc) s := by
  cases hW : widthOf wc with
  | none => exact .inl ⟨.unsupportedWidth, fun s' _ => (exec_modinv_of_no_width s' hW).trans
      (congrArg _ (s'.raise_eq_errorState _)), rfl⟩
  | some W =>
    rcases Nat.lt_or_ge s.a0.toNat (2 ^ W.bits) with hlt | hge
    · rcases Nat.mod_two_eq_zero_or_one s.a0.toNat with heven | hodd
      · exact .inl ⟨.nonInvertible, fun s' h => (exec_modinv_of_even hW (h.a0 ▸ hlt) (h.a0 ▸ heven)).trans
          (congrArg _ (s'.raise_eq_errorState _)), rfl⟩
      · exact .inr ⟨.result (inverseAt W s.a0), fun s' h => h.a0 ▸ (exec_modinv_of_odd hW (h.a0 ▸ hlt)
          (h.a0 ▸ hodd)).trans (congrArg _ (State.complete_eq_doneState _)), rfl, trivial⟩
    · exact .inl ⟨.unsupportedWidth, fun s' h => (exec_modinv_of_not_fits hW (h.a0 ▸ hge)).trans
        (congrArg _ (s'.raise_eq_errorState _)), rfl⟩

/-- Every command decides on an error it may raise or on an effect it may have (R301, R302). -/
theorem exec_decides (i : Instr) (s : State) : Decides i s := by
  cases i
  case nop => exact decides_nop s
  case cfgCrc => exact decides_cfgCrc _ _ _ _ s
  case cfgCrc32hw => exact decides_cfgCrc32hw _ _ s
  case cfgFnv => exact decides_cfgFnv _ _ _ s
  case cfgFnvinv => exact decides_cfgFnvinv _ _ _ s
  case cfgDjb2 => exact decides_cfgDjb2 _ _ _ s
  case cfgDjb2alt => exact decides_cfgDjb2alt _ _ _ s
  case reset => exact decides_reset _ s
  case update => exact decides_update _ s
  case updatei => exact decides_updatei _ _ s
  case final => exact decides_final _ s
  case unstep => exact decides_unstep _ s
  case loadreg => exact decides_loadreg _ s
  case readreg => exact decides_readreg _ s
  case query => exact decides_query _ s
  case release => exact decides_release _ s
  case modinv => exact decides_modinv _ s

end Sys2Proof.Machine
end

section
/-! What follows for every command from its decision: which errors it raises, what it leaves unchanged, and that it
reads and writes no context but its own (spec/10_state.md R37, R40; spec/20_memory.md R83, R99; spec/60_exceptions.md
R300). -/

namespace Sys2Proof.Machine

open Sys2Proof.Certificates

/-! ### The next state of a decision -/

theorem Raises.next {i : Instr} {s : State} {e : CmdError} (h : Raises i s e) :
    exec i s = .next (s.raise e) :=
  (h.exec_eq s (.refl i s)).trans (congrArg _ (s.raise_eq_errorState e).symm)

theorem Completes.next {i : Instr} {s : State} {f : Effect} (h : Completes i s f) :
    exec i s = .next (f.apply s).complete :=
  (h.exec_eq s (.refl i s)).trans (congrArg _ (State.complete_eq_doneState _).symm)

/-- What a command's next state is: an error it may raise, or an effect it may have. -/
theorem exec_next {i : Instr} {s t : State} (h : exec i s = .next t) :
    (∃ e, Raises i s e ∧ t = s.raise e) ∨ ∃ f, Completes i s f ∧ t = (f.apply s).complete := by
  rcases exec_decides i s with ⟨e, he⟩ | ⟨f, hf⟩
  · exact .inl ⟨e, he, by simpa [he.next] using h.symm⟩
  · exact .inr ⟨f, hf, by simpa [hf.next] using h.symm⟩

/-- Settles O19: a completed command leaves ERR 0, and a command that raises an error may raise it. -/
theorem errorsOnlyFromTheirCommands : Obligations.ErrorsOnlyFromTheirCommands := by
  intro i s t e h hcode
  rcases exec_next h with ⟨e', he', rfl⟩ | ⟨f, -, rfl⟩
  · rw [State.raise_status, statusErr_fail] at hcode
    exact CmdError.code_injective hcode ▸ he'.mayRaise
  · rw [State.complete_status, statusErr_ok] at hcode
    exact absurd hcode.symm e.code_ne_zero

/-- Settles O55: an error and a completion write STATUS only, and an effect writes RES or the context the command
names. -/
theorem commandFrame : Obligations.CommandFrame := by
  intro i s t h
  refine ⟨?_, ?_, ?_, ?_, ?_, ?_, ?_, ?_, ?_, fun d hd => exec_context_of_ne h hd⟩
  all_goals rcases exec_cases h with ⟨e, rfl⟩ | ⟨u, rfl, rfl | ⟨v, rfl⟩ | ⟨c, x, -, -, rfl⟩⟩ <;> simp

/-- Settles O56: an effect that writes RES is of a command that returns a value, and such a command writes nothing
else. -/
theorem resIsWrittenByFourCommands : Obligations.ResIsWrittenByFourCommands := by
  intro i s t h
  rcases exec_next h with ⟨e, -, rfl⟩ | ⟨f, hf, rfl⟩
  · exact ⟨fun _ => rfl, fun _ => rfl, fun _ => rfl⟩
  have hallowed := hf.allowed
  refine ⟨fun hnone => ?_, fun herr => absurd (statusErr_ok _) herr, fun hsome => ?_⟩
  · cases f with
    | keep | context => rfl
    | result v => exact absurd (hnone.symm.trans hallowed) (by decide)
  · cases f with
    | keep | result => rfl
    | context c x =>
      obtain ⟨hnone, -⟩ := hallowed
      exact absurd (hsome.symm.trans hnone) (by decide)

/-! ### Other contexts -/

/-- States that differ only in contexts other than `c` agree in all that a command on `c` reads. -/
theorem SameInputs.of_contexts {i : Instr} {s : State} {c : Nat} {cs : List Context}
    (hi : i.ctx? = some c ∨ i.ctx? = none) (hc : cs[c]? = s.contexts[c]?) :
    SameInputs i s { s with contexts := cs } := by
  refine ⟨rfl, rfl, rfl, rfl, rfl, fun d hd => ?_⟩
  rcases hi with h | h <;> rw [hd] at h <;> cases h
  exact hc

/-- Settles O58: both states lead to the command's one decision; an error and a value for RES say nothing of the
contexts, and a new context is written to `c` in both. -/
theorem contextsAreIndependent : Obligations.ContextsAreIndependent := by
  intro i s s' c hi hs' hlen hc
  obtain ⟨cs, rfl⟩ : ∃ cs, s' = { s with contexts := cs } := ⟨s'.contexts, hs'⟩
  have hsame := SameInputs.of_contexts hi hc
  rcases exec_decides i s with ⟨e, he⟩ | ⟨f, hf⟩
  · exact ⟨_, _, he.next, he.exec_eq _ hsame, by rw [State.raise_eq_errorState]; rfl, hc, fun d _ => ⟨rfl, rfl⟩⟩
  refine ⟨_, _, hf.next, hf.exec_eq _ hsame, ?_⟩
  rw [State.complete_eq_doneState]
  cases f with
  | keep | result => exact ⟨rfl, hc, fun d _ => ⟨rfl, rfl⟩⟩
  | context d x =>
    obtain ⟨-, hd⟩ := hf.allowed
    obtain rfl : d = c := by simpa [hd] using hi
    refine ⟨rfl, ?_, fun k hk => ⟨List.getElem?_set_ne hk.symm, List.getElem?_set_ne hk.symm⟩⟩
    change (cs.set d x)[d]? = (s.contexts.set d x)[d]?
    rw [List.getElem?_set_self', List.getElem?_set_self', hc]

end Sys2Proof.Machine
end

section
/-! The state after reset (spec/10_state.md R54; spec/70_reset_and_hazards.md R340) and the machine's invariant
(spec/00_scope.md R10; spec/10_state.md R38, R43, R48; spec/20_memory.md R81). -/

namespace Sys2Proof.Machine

open Sys2Proof.Certificates

/-! ### Reset -/

/-- Settles O12: the reset event gives the state after reset but for DMEM and the host's own fields. -/
theorem resetEventGivesResetValues : Obligations.ResetEventGivesResetValues := by
  intro s rest hp
  refine ⟨State.afterReset { s with pending := rest }, by simp [step, advance, hp, perform], rfl, rfl, rfl, rfl, rfl,
    State.afterReset_cap _, rfl, State.afterReset_nctx _, fun c x hx => ?_, rfl, fun _ => rfl, rfl, rfl⟩
  exact List.eq_of_mem_replicate (List.mem_of_getElem? hx)

/-- Settles O13: every field of the state after reset is a literal; its contexts are `n` empty ones. -/
theorem stateAfterReset : Obligations.StateAfterReset := by
  intro n p
  have hseen : statusErrSeen 0 = false := by decide
  exact ⟨rfl, rfl, rfl, rfl, rfl, rfl, hseen, rfl, List.length_replicate, fun c => List.getElem?_replicate, rfl, rfl,
    fun _ => rfl⟩

/-- STATUS 0 is well formed. -/
theorem statusWf_zero : StatusWf 0 := by decide

/-- Settles O14: all contexts are empty, STATUS is 0 and DMEM lists nothing. -/
theorem resetMeetsTheInvariant : Obligations.ResetMeetsTheInvariant := by
  have hreset (n : Nat) (p : Params) (hn : LegalNctx n) (hp : p.Legal) : (State.resetFor n p).Inv :=
    ⟨hp, by simpa [State.nctx, State.resetFor] using hn, statusWf_zero,
      fun x hx => List.eq_of_mem_replicate hx ▸ Context.wf_empty p, rfl, nofun⟩
  exact ⟨hreset, hreset Config.nctx Config.params (by decide) (by decide)⟩

/-! ### STATUS -/

/-- Clearing ERR sets no reserved bit. -/
theorem reserved_of_cleared {st : Word32} (h : st &&& 0xFFFFFEF0#32 = 0) :
    (st &&& 0xFFFFFFF0#32) &&& 0xFFFFFEF0#32 = 0 := by
  rw [BitVec.and_assoc, BitVec.and_comm 0xFFFFFFF0#32, ← BitVec.and_assoc, h]
  rfl

theorem statusWf_ok {st : Word32} (h : StatusWf st) : StatusWf (statusOk st) := by
  refine ⟨?_, by simp⟩
  rw [statusOk_eq]
  exact reserved_of_cleared h.1

/-- An error's code and ERRSEEN lie outside the reserved bits, and the code is at most 8 (R300). -/
theorem statusWf_fail {st : Word32} (h : StatusWf st) (e : CmdError) : StatusWf (statusFail st e) := by
  have hcode : e.code.setWidth 32 &&& 0xFFFFFEF0#32 = 0 := by cases e <;> decide
  have hseen : 0x00000100#32 &&& 0xFFFFFEF0#32 = 0 := by decide
  have hle : e.code.toNat ≤ 8 := by cases e <;> decide
  refine ⟨?_, by rwa [statusErr_fail]⟩
  rw [statusFail, statusWithErr, BitVec.and_or_distrib_right, BitVec.and_or_distrib_right, reserved_of_cleared h.1,
    hcode, hseen]
  rfl

/-! ### DMEM -/

/-- A store of a byte that exists keeps DMEM's form. -/
theorem dmemWf_store {p : Params} {m : Memory} (h : DmemWf p m) {a : Nat} (ha : dmemValid p a = true) (b : Byte) :
    DmemWf p (Memory.store m a b) := by
  obtain ⟨hwf, hvalid⟩ := h
  refine ⟨Memory.store_wf m a b hwf, fun cell hcell => ?_⟩
  rcases Memory.mem_store m a b cell hcell with rfl | hmem
  · exact ha
  · exact hvalid cell hmem

/-! ### The invariant -/

/-- Raising an error keeps the invariant. -/
theorem State.Inv.raise {s : State} (h : s.Inv) (e : CmdError) : (s.raise e).Inv := by
  obtain ⟨hparams, hnctx, hstatus, hcontexts, hdmem⟩ := h
  exact ⟨hparams, hnctx, statusWf_fail hstatus e, hcontexts, hdmem⟩

/-- An effect that writes no ill-formed context keeps the invariant. -/
theorem State.Inv.effect {s : State} (h : s.Inv) {f : Effect} (hf : f.KeepsWf s) : (f.apply s).complete.Inv := by
  obtain ⟨hparams, hnctx, hstatus, hcontexts, hdmem⟩ := h
  cases f with
  | keep | result => exact ⟨hparams, hnctx, statusWf_ok hstatus, hcontexts, hdmem⟩
  | context c x =>
    refine ⟨hparams, ?_, statusWf_ok hstatus, fun y hy => ?_, hdmem⟩
    · rwa [State.complete_nctx, Effect.apply, State.setContext_nctx]
    · rcases List.mem_or_eq_of_mem_set hy with hmem | rfl
      · exact hcontexts y hmem
      · exact hf hcontexts

/-- Every command keeps the invariant. -/
theorem State.Inv.of_exec {s t : State} (h : s.Inv) {i : Instr} (hexec : exec i s = .next t) : t.Inv := by
  rcases exec_next hexec with ⟨e, -, rfl⟩ | ⟨f, hf, rfl⟩
  · exact h.raise e
  · exact h.effect hf.keepsWf

/-- The reset event keeps the invariant. -/
theorem State.Inv.afterReset {s : State} (h : s.Inv) : s.afterReset.Inv := by
  obtain ⟨hparams, hnctx, -, -, hdmem⟩ := h
  exact ⟨hparams, by rwa [State.afterReset_nctx], statusWf_zero,
    fun x hx => List.eq_of_mem_replicate hx ▸ Context.wf_empty s.params, hdmem⟩

/-- Settles O15: of the things a step can do, a command keeps the invariant by its decision, a DMEM store is of a byte
that exists, and a reset gives reset values; the others touch nothing the invariant speaks of. -/
theorem stepKeepsTheInvariant : Obligations.StepKeepsTheInvariant := by
  intro s t hinv hstep
  cases step_cases hstep with
  | idle | read | operands => exact hinv
  | @command _ _ rest _ _ hrun =>
    have hrest : State.Inv { s with pending := rest } := hinv
    rcases runCommand_cases hrun with rfl | ⟨i, -, hexec⟩
    · exact hrest.raise _
    · exact hrest.of_exec hexec
  | dmem _ hv =>
    obtain ⟨hparams, hnctx, hstatus, hcontexts, hdmem⟩ := hinv
    exact ⟨hparams, hnctx, hstatus, hcontexts, dmemWf_store hdmem hv _⟩
  | @reset rest =>
    have hrest : State.Inv { s with pending := rest } := hinv
    exact hrest.afterReset

end Sys2Proof.Machine
end

section
/-! The host's accesses to the window and to DMEM (spec/10_state.md R33 to R39; spec/20_memory.md R81 to R90). -/

namespace Sys2Proof.Machine

open Sys2Proof.Certificates

/-! ### Taking an event -/

/-- A step takes the next event, which takes effect. -/
theorem step_of_pending {s : State} {e : HostEvent} {rest : List HostEvent} (hp : s.pending = e :: rest) :
    step s = perform e { s with pending := rest } := by
  rw [step, advance, hp]

/-! ### Halves of a register -/

theorem toNat_lowHalf (v : Word64) : (lowHalf v).toNat = v.toNat % 2 ^ 32 := by
  rw [lowHalf, BitVec.extractLsb'_toNat, Nat.shiftRight_zero]

theorem toNat_highHalf (v : Word64) : (highHalf v).toNat = v.toNat / 2 ^ 32 := by
  have hv := v.isLt
  rw [highHalf, BitVec.extractLsb'_toNat, Nat.shiftRight_eq_div_pow]
  omega

/-- The low half of two halves joined. -/
theorem lowHalf_append (x y : Word32) : lowHalf (x ++ y) = y := by
  have hy := y.isLt
  apply BitVec.eq_of_toNat_eq
  rw [toNat_lowHalf, toNat_append_eq_add]
  omega

/-- A register is its two halves joined. -/
theorem highHalf_append_lowHalf (v : Word64) : highHalf v ++ lowHalf v = v := by
  apply BitVec.eq_of_toNat_eq
  rw [toNat_append_eq_add, toNat_highHalf, toNat_lowHalf]
  omega

/-- Writing both halves writes the whole register (R87). -/
theorem withHigh_withLow (r v : Word64) : withHigh (withLow r (lowHalf v)) (highHalf v) = v := by
  rw [withHigh, withLow, lowHalf_append, highHalf_append_lowHalf]

/-- A register moved down by a half has its high half as its low one. -/
theorem lowHalf_ushiftRight (v : Word64) : lowHalf (v >>> 32) = highHalf v := by
  apply BitVec.eq_of_toNat_eq
  rw [toNat_lowHalf, toNat_highHalf, BitVec.toNat_ushiftRight, Nat.shiftRight_eq_div_pow]
  omega

/-- A word with zeros above it is the word, zero-extended. -/
theorem zero_append_eq_zext64 (w : Word32) : 0#32 ++ w = zext64 w := by
  apply BitVec.eq_of_toNat_eq
  rw [toNat_append_eq_add, toNat_zext64 (by decide)]
  simp

/-- A word is the low half of the word, zero-extended. -/
theorem lowHalf_zext64 (w : Word32) : lowHalf (zext64 w) = w := by
  rw [← zero_append_eq_zext64, lowHalf_append]

/-! ### Admission -/

/-- An access of this size is admitted at the offset `off` of the window (R88). -/
def AdmittedAt (size : AccessSize) (off : Nat) : Prop :=
  off < 256 ∧ ((size = .b64 ∧ off % 8 = 0) ∨ (size = .b32 ∧ off % 4 = 0))

theorem admitted_of_admittedAt {size : AccessSize} {off : Nat} (h : AdmittedAt size off) (p : Params) :
    admitted p size (p.ifbase + off) = some off := by
  obtain ⟨hlt, ⟨rfl, halign⟩ | ⟨rfl, halign⟩⟩ := h
  all_goals simp [admitted, halign, hlt]

/-- Outside the window, or at an offset of the wrong alignment, nothing is admitted. -/
theorem admitted_of_not_admittedAt {p : Params} {size : AccessSize} {addr : Nat}
    (h : ¬ (p.ifbase ≤ addr ∧ AdmittedAt size (addr - p.ifbase))) : admitted p size addr = none := by
  unfold admitted
  split
  · rfl
  · cases size
    case b8 | b16 => rfl
    case b32 | b64 =>
      refine if_neg fun halign => h ⟨by omega, by omega, ?_⟩
      simp [halign]

section
variable {s : State} {rest : List HostEvent} {off : Nat}

/-- A 32-bit read of the window (R87). -/
theorem step_read32 (hp : s.pending = .read .b32 (s.params.ifbase + off) :: rest) (h : AdmittedAt .b32 off) :
    step s = .next { s with pending := rest, readLog := zext64 (window32 s off) :: s.readLog } := by
  simp only [step_of_pending hp, perform, hostRead, admitted_of_admittedAt h]
  rfl

/-- A 64-bit read of the window (R87). -/
theorem step_read64 (hp : s.pending = .read .b64 (s.params.ifbase + off) :: rest) (h : AdmittedAt .b64 off) :
    step s = .next { s with pending := rest, readLog := window64 s off :: s.readLog } := by
  simp only [step_of_pending hp, perform, hostRead, admitted_of_admittedAt h]
  rfl

/-- A 32-bit write of the window. -/
theorem step_write32 {v : Word64} (hp : s.pending = .write .b32 (s.params.ifbase + off) v :: rest)
    (h : AdmittedAt .b32 off) : step s = store32 off (lowHalf v) { s with pending := rest } := by
  simp only [step_of_pending hp, perform, hostWrite, admitted_of_admittedAt h]

/-- A 64-bit write of the window. -/
theorem step_write64 {v : Word64} (hp : s.pending = .write .b64 (s.params.ifbase + off) v :: rest)
    (h : AdmittedAt .b64 off) : step s = store64 off v { s with pending := rest } := by
  simp only [step_of_pending hp, perform, hostWrite, admitted_of_admittedAt h]

end

/-! ### Reads -/

/-- From offset 0x34 on the window reads 0 (R39). -/
theorem window32_of_reserved (s : State) {off : Nat} (h : 0x34 ≤ off) : window32 s off = 0 := by
  unfold window32
  split
  case h_11 => rfl
  all_goals omega

/-- What 32-bit reads below the reserved offsets return (R33, R34). -/
theorem window32_table (s : State) :
    ∀ q ∈ [(0x00, 0#32), (0x04, 0#32), (0x08, lowHalf s.a0), (0x0C, highHalf s.a0), (0x10, lowHalf s.a1),
      (0x14, highHalf s.a1), (0x18, lowHalf s.a2), (0x1C, highHalf s.a2), (0x20, lowHalf s.res),
      (0x24, highHalf s.res), (0x28, s.status), (0x2C, 0#32), (0x30, s.cap)],
      AdmittedAt .b32 q.1 ∧ window32 s q.1 = q.2 := by
  simp [AdmittedAt, window32]

/-- What 64-bit reads below the reserved offsets return (R33, R87). -/
theorem window64_table (s : State) :
    ∀ q ∈ [(0x00, 0#64), (0x08, s.a0), (0x10, s.a1), (0x18, s.a2), (0x20, s.res), (0x28, zext64 s.status),
      (0x30, zext64 s.cap)], AdmittedAt .b64 q.1 ∧ window64 s q.1 = q.2 := by
  have hzero : zext64 0#32 = 0#64 := rfl
  simp [AdmittedAt, window64, window32, highHalf_append_lowHalf, zero_append_eq_zext64, hzero]

/-- Settles O7: each offset of the tables, or a reserved one, is admitted and its register is read. -/
theorem hostReadsReturnTheRegisters : Obligations.HostReadsReturnTheRegisters := by
  intro s rest off
  refine ⟨fun v hp h => ?_, fun v hp h => ?_⟩
  · obtain ⟨hadm, rfl⟩ : AdmittedAt .b32 off ∧ window32 s off = v := by
      rcases h with hmem | ⟨hge, hlt, halign, rfl⟩
      · exact window32_table s _ hmem
      · exact ⟨⟨hlt, .inr ⟨rfl, halign⟩⟩, window32_of_reserved s hge⟩
    exact step_read32 hp hadm
  · obtain ⟨hadm, rfl⟩ : AdmittedAt .b64 off ∧ window64 s off = v := by
      rcases h with hmem | ⟨hge, hlt, halign, rfl⟩
      · exact window64_table s _ hmem
      · refine ⟨⟨hlt, .inl ⟨rfl, halign⟩⟩, ?_⟩
        rw [window64, window32_of_reserved s (by omega), window32_of_reserved s (by omega)]
        rfl
    exact step_read64 hp hadm

/-! ### Writes -/

/-- Settles O8: a 64-bit write replaces the low half and then the high half, a 32-bit write the one half. -/
theorem hostWritesOfOperandRegisters : Obligations.HostWritesOfOperandRegisters := by
  intro s rest v
  refine ⟨fun hp => ?_, fun hp => ?_, fun hp => ?_, fun hp => ?_, fun hp => ?_, fun hp => ?_, fun hp => ?_,
    fun hp => ?_, fun hp => ?_⟩
  case refine_1 | refine_2 | refine_3 =>
    rw [step_write64 hp (by simp [AdmittedAt])]
    simp only [store64, store32, withHigh_withLow]
  all_goals exact step_write32 hp (by simp [AdmittedAt])

/-- Writes of the reserved offset above CMD, and of RES and all that follows, are ignored (R37 to R39). -/
theorem store32_of_ignored {off : Nat} (h : off = 0x04 ∨ 0x20 ≤ off) (v : Word32) (s : State) :
    store32 off v s = .next s := by
  unfold store32
  split
  case h_8 => rfl
  all_goals omega

/-- Settles O9: the offsets are admitted and ignored, and a 64-bit write is ignored in both halves. -/
theorem otherHostWritesAreIgnored : Obligations.OtherHostWritesAreIgnored := by
  intro s rest off v
  refine ⟨fun hp h => ?_, fun hp ⟨hge, hlt, halign⟩ => ?_⟩
  · have hadm : AdmittedAt .b32 off := ⟨by omega, .inr ⟨rfl, by omega⟩⟩
    exact (step_write32 hp hadm).trans (store32_of_ignored (by omega) _ _)
  · have hadm : AdmittedAt .b64 off := ⟨hlt, .inl ⟨rfl, halign⟩⟩
    rw [step_write64 hp hadm, store64, store32_of_ignored (.inr hge)]
    exact store32_of_ignored (.inr (by omega)) _ _

/-! ### DMEM -/

/-- Settles O11: a store of a byte that exists is a store of DMEM's written bytes. -/
theorem dmemStoresAndIdling : Obligations.DmemStoresAndIdling := by
  intro s rest a b
  refine ⟨fun hp hvalid => ⟨Memory.store s.dmem a b, ?_, ?_, fun a' hne => ?_⟩, fun hp habsent => ?_, fun hp => ?_⟩
  · simp [step_of_pending hp, perform, hostDmemWrite, hvalid]
  · exact (State.readDmem_store { s with pending := rest } a a b).trans (if_pos rfl)
  · exact (State.readDmem_store { s with pending := rest } a a' b).trans (if_neg hne)
  · simp [step_of_pending hp, perform, hostDmemWrite, habsent]
  · rw [step, advance, hp]

end Sys2Proof.Machine
end

section
/-! A write of CMD runs the command word, and what an access does does not depend on the events that follow it
(spec/10_state.md R34; spec/20_memory.md R88, R94). -/

namespace Sys2Proof.Machine

open Sys2Proof.Certificates

/-! ### CMD -/

/-- A write of CMD, 32 or 64 bits wide, runs the command word in its low half (R34). -/
theorem step_writeCmd {s : State} {size : AccessSize} {v : Word64} {rest : List HostEvent}
    (hp : s.pending = .write size s.params.ifbase v :: rest) (hsize : size = .b32 ∨ size = .b64) :
    step s = runCommand (lowHalf v) { s with pending := rest } := by
  have hp' : s.pending = .write size (s.params.ifbase + 0) v :: rest := hp
  rcases hsize with rfl | rfl
  · exact step_write32 hp' (by simp [AdmittedAt])
  · exact (step_write64 hp' (by simp [AdmittedAt])).trans (store64_zero v _)

/-- A word that decodes runs its command (R124). -/
theorem runCommand_of_decode {v : Word32} {i : Instr} (h : decode v = .ok i) (s : State) :
    runCommand v s = exec i s := by
  rw [runCommand, h]

/-- The step after the host's write of a command word runs that word. -/
theorem step_cmdWrite {s : State} {w : Word32} {rest : List HostEvent}
    (hp : s.pending = cmdWrite s.params w :: rest) : step s = runCommand w { s with pending := rest } := by
  rw [step_writeCmd hp (.inl rfl)]
  exact congrArg (runCommand · _) (lowHalf_zext64 w)

/-- Settles O6: a write of CMD runs its low word, which is a command or is not, and CMD reads 0. -/
theorem stepRunsTheDecodedCommand : Obligations.StepRunsTheDecodedCommand := by
  intro s rest size v i hsize
  refine ⟨fun hp hdec => ?_, fun hp hillegal => ?_, fun hp => ?_, fun w hdec => ?_⟩
  · exact (step_writeCmd hp hsize).trans (runCommand_of_decode hdec _)
  · exact (step_writeCmd hp hsize).trans (runCommand_of_not_decodes hillegal _)
  · exact step_read32 (off := 0) hp (by simp [AdmittedAt])
  · have hword : BitVec.ofNat 32 (w.toNat % 2 ^ 32) = w := by
      rw [Nat.mod_eq_of_lt w.isLt, BitVec.ofNat_toNat, BitVec.setWidth_eq]
    have hp : (s.withFetchWord 32 w.toNat).pending = cmdWrite s.params w :: s.pending := by
      rw [State.withFetchWord, hword]
    exact (step_cmdWrite hp).trans (runCommand_of_decode hdec s)

/-! ### The events that follow -/

/-- A state with the events it has is the state. -/
theorem with_pending_self {s : State} {events : List HostEvent} (h : s.pending = events) :
    { s with pending := events } = s := by
  subst h
  rfl

/-- What a command does does not depend on the events to come. -/
theorem exec_with_pending {i : Instr} {s t : State} (h : exec i s = .next t) (events : List HostEvent) :
    exec i { s with pending := events } = .next { t with pending := events } := by
  have hsame : SameInputs i s { s with pending := events } := ⟨rfl, rfl, rfl, rfl, rfl, fun _ _ => rfl⟩
  rcases exec_next h with ⟨e, he, rfl⟩ | ⟨f, hf, rfl⟩
  · rw [he.exec_eq _ hsame, State.raise_eq_errorState]
    rfl
  · rw [hf.exec_eq _ hsame, State.complete_eq_doneState]
    cases f <;> rfl

/-- Nor does a command word. -/
theorem runCommand_with_pending {v : Word32} {s t : State} (h : runCommand v s = .next t) (events : List HostEvent) :
    runCommand v { s with pending := events } = .next { t with pending := events } := by
  unfold runCommand at h ⊢
  split at h
  · cases h
    rfl
  · exact exec_with_pending h events

/-- Nor does a 32-bit write. -/
theorem store32_with_pending {off : Nat} {v : Word32} {s t : State} (h : store32 off v s = .next t)
    (events : List HostEvent) : store32 off v { s with pending := events } = .next { t with pending := events } := by
  unfold store32 at h ⊢
  split at h
  · exact runCommand_with_pending h events
  all_goals cases h; rfl

/-- A command word takes no host event and keeps the parameters. -/
theorem runCommand_frame {v : Word32} {s t : State} (h : runCommand v s = .next t) :
    t.pending = s.pending ∧ t.params = s.params := by
  rcases runCommand_cases h with rfl | ⟨i, -, hexec⟩
  · exact ⟨rfl, rfl⟩
  · obtain ⟨-, -, -, hparams, -, -, hpending, -⟩ := commandFrame i s t hexec
    exact ⟨hpending, hparams⟩

/-- A 32-bit write takes a step, and takes no further event and keeps the parameters. -/
theorem store32_next (off : Nat) (v : Word32) (s : State) :
    ∃ t, store32 off v s = .next t ∧ t.pending = s.pending ∧ t.params = s.params := by
  by_cases hoff : off = 0
  · subst hoff
    obtain ⟨t, ht, -⟩ := completesOrFails_runCommand v s
    exact ⟨t, ht, runCommand_frame ht⟩
  · obtain ⟨x, y, z, h⟩ := store32_operands hoff v s
    exact ⟨_, h, rfl, rfl⟩

/-! ### Runs -/

/-- A run goes on from the state the first step leads to. -/
theorem run_succ_of_next {s t : State} (h : step s = .next t) (k : Nat) :
    Sys2Proof.core.run (k + 1) s = Sys2Proof.core.run k t := by
  have hstep : Sys2Proof.core.step s = .next t := h
  simp only [Host.Core.run, hstep]

/-- A run of one step is the step. -/
theorem run_one (s : State) : Sys2Proof.core.run 1 s = step s := by
  cases h : step s with
  | next t => exact run_succ_of_next h 0
  | fault r | refused r =>
    have hstep : Sys2Proof.core.step s = _ := h
    simp only [Host.Core.run, hstep]
    rfl

/-! ### Admitted accesses -/

/-- A 64-bit write of the window is its two 32-bit writes in ascending order (R88). -/
theorem step_write64_eq_run {s : State} {off : Nat} {v : Word64} {rest : List HostEvent}
    (hp : s.pending = .write .b64 (s.params.ifbase + off) v :: rest) (h : AdmittedAt .b64 off) :
    step s = Sys2Proof.core.run 2 { s with
      pending := .write .b32 (s.params.ifbase + off) v ::
        .write .b32 (s.params.ifbase + off + 4) (v >>> 32) :: rest } := by
  obtain ⟨hlt, halign⟩ := h
  have halign : off % 8 = 0 := by simpa using halign
  obtain ⟨t, hlow, hpending, hparams⟩ := store32_next off (lowHalf v) { s with pending := rest }
  have hself : ({ t with pending := rest } : State) = t := with_pending_self hpending
  set high : HostEvent := .write .b32 (s.params.ifbase + off + 4) (v >>> 32)
  have hfirst : step { s with pending := .write .b32 (s.params.ifbase + off) v :: high :: rest } =
      .next { t with pending := high :: rest } :=
    (step_write32 rfl ⟨hlt, .inr ⟨rfl, by omega⟩⟩).trans (store32_with_pending hlow (high :: rest))
  have hsecond : step { t with pending := high :: rest } = store32 (off + 4) (highHalf v) t := by
    have hp' : ({ t with pending := high :: rest } : State).pending =
        .write .b32 (t.params.ifbase + (off + 4)) (v >>> 32) :: rest := by
      rw [hparams, ← Nat.add_assoc]
    rw [step_write32 hp' ⟨by omega, .inr ⟨rfl, by omega⟩⟩, lowHalf_ushiftRight]
    exact congrArg (store32 (off + 4) (highHalf v)) hself
  rw [run_succ_of_next hfirst, run_one, hsecond, step_write64 hp ⟨hlt, .inl ⟨rfl, halign⟩⟩]
  simp only [store64, hlow]

/-- An admitted access takes a step. -/
theorem step_of_admittedAt {s : State} {e : HostEvent} {size : AccessSize} {off : Nat} {v : Word64}
    {rest : List HostEvent} (hp : s.pending = e :: rest)
    (he : e = .read size (s.params.ifbase + off) ∨ e = .write size (s.params.ifbase + off) v)
    (h : AdmittedAt size off) : ∃ t, step s = .next t := by
  have hsize : size = .b64 ∨ size = .b32 := h.2.imp And.left And.left
  rcases he with rfl | rfl <;> rcases hsize with rfl | rfl
  · exact ⟨_, step_read64 hp h⟩
  · exact ⟨_, step_read32 hp h⟩
  · obtain ⟨t, hlow, -⟩ := store32_next off (lowHalf v) { s with pending := rest }
    obtain ⟨u, hhigh, -⟩ := store32_next (off + 4) (highHalf v) t
    exact ⟨u, by simp only [step_write64 hp h, store64, hlow, hhigh]⟩
  · obtain ⟨t, ht, -⟩ := store32_next off (lowHalf v) { s with pending := rest }
    exact ⟨t, (step_write32 hp h).trans ht⟩

/-- An access that is not admitted takes none (log 6). -/
theorem step_of_not_admitted {s : State} {e : HostEvent} {size : AccessSize} {addr : Nat} {v : Word64}
    {rest : List HostEvent} (hp : s.pending = e :: rest) (he : e = .read size addr ∨ e = .write size addr v)
    (h : admitted s.params size addr = none) : step s = .fault .accessNotAdmitted := by
  rcases he with rfl | rfl
  · simp only [step_of_pending hp, perform, hostRead, h]
  · simp only [step_of_pending hp, perform, hostWrite, h]

/-- Settles O10: an access inside the window and aligned is admitted at its offset and steps, any other is not admitted;
the wide accesses are made of the narrow ones. -/
theorem onlyAdmittedAccessesStep : Obligations.OnlyAdmittedAccessesStep := by
  intro s rest e size addr v hp he inside aligned
  have hoff (h : inside ∧ aligned) : ∃ off, addr = s.params.ifbase + off ∧ AdmittedAt size off := by
    obtain ⟨⟨hge, hlt⟩, haligned⟩ := h
    exact ⟨addr - s.params.ifbase, by omega, by omega, haligned⟩
  refine ⟨fun h => ?_, fun h => ?_, fun h hwrite => ?_, fun h hread => ?_⟩
  · obtain ⟨off, rfl, hadm⟩ := hoff h
    exact step_of_admittedAt hp he hadm
  · refine step_of_not_admitted hp he (admitted_of_not_admittedAt fun ⟨hge, hlt, haligned⟩ => h ⟨⟨hge, ?_⟩, haligned⟩)
    omega
  · obtain ⟨off, rfl, hadm⟩ := hoff h
    subst hwrite
    obtain rfl : .b64 = size := by simpa using he.symm
    exact step_write64_eq_run hp hadm
  · obtain ⟨off, rfl, hadm⟩ := hoff h
    subst hread
    obtain rfl : .b64 = size := by simpa using he.symm
    obtain ⟨hlt, halign⟩ := hadm
    have halign8 : off % 8 = 0 := by simpa using halign
    have hhigh : AdmittedAt .b32 (off + 4) := ⟨by omega, .inr ⟨rfl, by omega⟩⟩
    exact ⟨window32 s off, window32 s (off + 4), step_read32 rfl ⟨hlt, .inr ⟨rfl, by omega⟩⟩,
      step_read32 (off := off + 4) rfl hhigh, step_read64 hp ⟨hlt, halign⟩⟩

end Sys2Proof.Machine
end

section
/-! The functions the commands use: widths, default constants, and the functions of each kind (spec/30_encoding.md R114,
R118; spec/43_fnv.md R213, R214; spec/44_djb2.md R240, R241, R243; spec/45_context_ops.md R260). -/

namespace Sys2Proof.Machine

open Sys2Proof.Certificates

/-- The width of a code is 8 doubled as often as the code says (R114). -/
theorem bits_of_widthOf {wc : Nat} {W : Width} (h : widthOf wc = some W) : wc ≤ 3 ∧ W.bits = 8 <<< wc := by
  unfold widthOf at h
  split at h <;> cases h <;> decide

/-- Settles O39: a code has a width of its own size or none, and fitting is being below `2^W`. -/
theorem widthCodesAndFits : Obligations.WidthCodesAndFits := by
  refine ⟨fun wc W => ⟨bits_of_widthOf, fun ⟨_, hbits⟩ => widthOf_of_bits ?_⟩, fun _ => widthOf_of_ge,
    fits_eq_true_iff⟩
  rw [hbits, Nat.shiftLeft_eq]

/-- Settles O38: each entry of the two tables. -/
theorem defaultConstants : Obligations.DefaultConstants := ⟨rfl, rfl, rfl, rfl, rfl, rfl, rfl, rfl⟩

/-- Settles O47: in 8 bits or more 33 and the zero-extended byte keep their values. -/
theorem djb2StepArithmetic : Obligations.Djb2StepArithmetic := by
  intro N r b hN
  have hbyte : (b.setWidth N).toNat = b.toNat := BitVec.toNat_setWidth_of_le hN
  have hfactor : (33 : BitVec N).toNat = 33 := by
    have hle : 2 ^ 8 ≤ 2 ^ N := Nat.pow_le_pow_right (by decide) hN
    have hlt : 33 < 2 ^ N := by omega
    exact Nat.mod_eq_of_lt hlt
  refine ⟨?_, ?_⟩
  · rw [djb2Byte, BitVec.toNat_add, BitVec.toNat_mul, hbyte, hfactor, Nat.mod_add_mod]
  · rw [djb2altByte, BitVec.toNat_xor, BitVec.toNat_mul, hbyte, hfactor]

/-- Settles O37: each unit's functions are its engine's by definition, every kind has its own unit, and a step's value
fits. -/
theorem kindFunctions : Obligations.KindFunctions := by
  refine ⟨fun x r b => ⟨rfl, rfl, rfl, rfl, rfl, rfl, rfl, rfl, rfl, rfl⟩,
    ⟨rfl, rfl, rfl, rfl, rfl, fun k => ?_⟩, fun x k r b hk hwidth => ?_⟩
  · cases k <;> simp [Kind.stream?]
  · exact (fits_eq_true_iff _ _).mp (fits_stepByte hk hwidth r b)

end Sys2Proof.Machine
end

section
/-! The forms of the CRC step that the spec gives as equal (spec/41_crc.md R166, R167; spec/42_crc32hw.md R192 to R194,
R198, R199): the rounds are linear in the register, and reflection turns a round into the reflected round. -/

namespace Sys2Proof.Machine

open Sys2Proof.Certificates

/-! ### The table-driven form -/

/-- A round is linear: each register's own high bit decides on its own copy of the polynomial. -/
theorem crcRound_xor {N : Nat} (P x y : BitVec N) : crcRound P (x ^^^ y) = crcRound P x ^^^ crcRound P y := by
  have hshift : (x ^^^ y) <<< 1 = x <<< 1 ^^^ y <<< 1 := BitVec.shiftLeft_xor_distrib x y 1
  unfold crcRound
  rw [BitVec.msb_xor, hshift]
  cases x.msb <;> cases y.msb
  case true.true =>
    calc x <<< 1 ^^^ y <<< 1
        = x <<< 1 ^^^ y <<< 1 ^^^ (P ^^^ P) := by rw [BitVec.xor_self, BitVec.xor_zero]
      _ = (x <<< 1 ^^^ P) ^^^ (y <<< 1 ^^^ P) := by ac_rfl
  case false.false => rfl
  case true.false => exact (by ac_rfl : x <<< 1 ^^^ y <<< 1 ^^^ P = (x <<< 1 ^^^ P) ^^^ y <<< 1)
  case false.true => exact BitVec.xor_assoc _ _ _

theorem crcRounds_xor {N : Nat} (P : BitVec N) (k : Nat) (x y : BitVec N) :
    crcRounds P k (x ^^^ y) = crcRounds P k x ^^^ crcRounds P k y := by
  induction k generalizing x y with
  | zero => rfl
  | succ k ih => simp only [crcRounds, crcRound_xor, ih]

/-- While the top bits are zero a round only shifts. -/
theorem crcRounds_of_top_zero {N : Nat} (P : BitVec N) {k : Nat} (hk : k ≤ N) {x : BitVec N}
    (hx : x.toNat < 2 ^ (N - k)) : crcRounds P k x = x <<< k := by
  induction k generalizing x with
  | zero => simp [crcRounds]
  | succ k ih =>
    have hdouble : 2 * x.toNat < 2 ^ (N - k) := by
      have hpow : 2 ^ (N - k) = 2 * 2 ^ (N - (k + 1)) := by rw [← pow_succ']; congr 1; omega
      omega
    have hle : 2 ^ (N - k) ≤ 2 ^ N := Nat.pow_le_pow_right (by decide) (Nat.sub_le N k)
    have hmsb : x.msb = false := BitVec.msb_eq_false_iff_two_mul_lt.mpr (by omega)
    have hshift : (x <<< 1).toNat = 2 * x.toNat := by
      rw [BitVec.toNat_shiftLeft, Nat.shiftLeft_eq, pow_one, Nat.mod_eq_of_lt (by omega), Nat.mul_comm]
    have hround : crcRound P x = x <<< 1 := by simp [crcRound, hmsb]
    rw [crcRounds, hround, ih (by omega) (hshift ▸ hdouble), ← BitVec.shiftLeft_add, Nat.add_comm]

/-- The top byte of a register. -/
def topByte {N : Nat} (r : BitVec N) : Byte := (r >>> (N - 8)).setWidth 8

/-- A register without its top byte. -/
def belowTopByte {N : Nat} (r : BitVec N) : BitVec N := (r.setWidth (N - 8)).setWidth N

/-- A register is its top byte and the rest. -/
theorem belowTopByte_xor_topByte {N : Nat} (hN : 8 ≤ N) (r : BitVec N) :
    belowTopByte r ^^^ (topByte r).setWidth N <<< (N - 8) = r := by
  refine BitVec.eq_of_getLsbD_eq fun i hi => ?_
  simp only [belowTopByte, topByte, BitVec.getLsbD_xor, BitVec.getLsbD_setWidth, BitVec.getLsbD_shiftLeft,
    BitVec.getLsbD_ushiftRight]
  by_cases htop : i < N - 8
  · simp [htop, hi]
  · have hlow : i - (N - 8) < 8 := by omega
    have hplace : N - 8 + (i - (N - 8)) = i := by omega
    simp [htop, hi, hlow, hplace]
    omega

/-- Eight rounds only shift the rest: the top byte leaves the register. -/
theorem crcRounds_belowTopByte {N : Nat} (hN : 8 ≤ N) (P r : BitVec N) :
    crcRounds P 8 (belowTopByte r) = r <<< 8 := by
  have hlt : (belowTopByte r).toNat < 2 ^ (N - 8) := by
    rw [belowTopByte, BitVec.toNat_setWidth_of_le (Nat.sub_le N 8)]
    exact (r.setWidth (N - 8)).isLt
  have hout : (topByte r).setWidth N <<< (N - 8) <<< 8 = 0#N := by
    rw [← BitVec.shiftLeft_add, Nat.sub_add_cancel hN, BitVec.shiftLeft_eq_zero (Nat.le_refl N)]
  calc crcRounds P 8 (belowTopByte r)
      = belowTopByte r <<< 8 ^^^ (topByte r).setWidth N <<< (N - 8) <<< 8 := by
        rw [crcRounds_of_top_zero P hN hlt, hout, BitVec.xor_zero]
    _ = r <<< 8 := by rw [← BitVec.shiftLeft_xor_distrib, belowTopByte_xor_topByte hN]

/-- The table step is the bitwise step (R166). -/
theorem crcByteTable_eq_crcByte {N : Nat} (hN : 8 ≤ N) (P r : BitVec N) (refin : Bool) (b : Byte) :
    crcByteTable P refin r b = crcByte P refin r b := by
  set c : Byte := if refin then reflect b else b
  have hindex : ((topByte r ^^^ c).setWidth N) <<< (N - 8) =
      (topByte r).setWidth N <<< (N - 8) ^^^ c.setWidth N <<< (N - 8) := by
    rw [BitVec.setWidth_xor, BitVec.shiftLeft_xor_distrib]
  calc crcByteTable P refin r b
      = crcRounds P 8 (belowTopByte r) ^^^ crcRounds P 8 ((topByte r ^^^ c).setWidth N <<< (N - 8)) := by
        rw [crcRounds_belowTopByte hN]; rfl
    _ = crcRounds P 8 (r ^^^ c.setWidth N <<< (N - 8)) := by
        rw [hindex, ← crcRounds_xor, ← BitVec.xor_assoc, belowTopByte_xor_topByte hN]

/-- Settles O48: the register is its top byte, which the table steps together with the byte, and the rest, which 8
rounds only shift. -/
theorem tableFormAgrees : Obligations.TableFormAgrees := fun _ P r refin b hN => crcByteTable_eq_crcByte hN P r refin b

/-! ### The reflected form -/

theorem reflect_reflect {N : Nat} (v : BitVec N) : reflect (reflect v) = v := BitVec.reverse_reverse_eq

theorem reflect_xor {N : Nat} (x y : BitVec N) : reflect (x ^^^ y) = reflect x ^^^ reflect y := by
  refine BitVec.eq_of_getLsbD_eq fun i _ => ?_
  simp only [getLsbD_reflect, BitVec.getMsbD_xor, BitVec.getLsbD_xor]

theorem reflect_shiftLeft_one {N : Nat} (v : BitVec N) : reflect (v <<< 1) = reflect v >>> 1 := by
  refine BitVec.eq_of_getLsbD_eq fun i _ => ?_
  simp only [getLsbD_reflect, BitVec.getMsbD_shiftLeft, BitVec.getLsbD_ushiftRight, Nat.add_comm]

/-- The reflected round is the reflection of the round (R167). -/
theorem reflectedRound_reflect {N : Nat} (P r : BitVec N) :
    reflectedRound (reflect P) (reflect r) = reflect (crcRound P r) := by
  have hbit : (reflect r).getLsbD 0 = r.msb := by rw [getLsbD_reflect]; rfl
  rw [reflectedRound, crcRound, hbit, ← reflect_shiftLeft_one, ← reflect_xor]
  split <;> rfl

theorem reflectedRounds_reflect {N : Nat} (P : BitVec N) (k : Nat) (r : BitVec N) :
    reflectedRounds (reflect P) k (reflect r) = reflect (crcRounds P k r) := by
  induction k generalizing r with
  | zero => rfl
  | succ k ih => rw [reflectedRounds, reflectedRound_reflect, ih, crcRounds]

/-- The byte reversed into the top of the register is the reflection of the byte in its bottom. -/
theorem reflect_top_byte {N : Nat} (hN : 8 ≤ N) (b : Byte) :
    reflect ((reflect b).setWidth N <<< (N - 8)) = b.setWidth N := by
  refine BitVec.eq_of_getLsbD_eq fun i hi => ?_
  rw [getLsbD_reflect, BitVec.getMsbD_shiftLeft, BitVec.getMsbD_eq_getLsbD, BitVec.getLsbD_setWidth, getLsbD_reflect,
    BitVec.getLsbD_setWidth]
  by_cases hbyte : i < 8
  · have hplace : N - 1 - (i + (N - 8)) = 8 - 1 - i := by omega
    have hin : i + (N - 8) < N := by omega
    rw [BitVec.getLsbD_eq_getMsbD b i, hplace]
    simp [hbyte, hi, hin]
    omega
  · have hout : ¬ i + (N - 8) < N := by omega
    simp [hout, BitVec.getLsbD_of_ge b i (by omega)]

/-- The reflected byte step is the reflection of the byte step with reflectIn set (R167). -/
theorem crcByteReflected_reflect {N : Nat} (hN : 8 ≤ N) (P r : BitVec N) (b : Byte) :
    crcByteReflected (reflect P) (reflect r) b = reflect (crcByte P true r b) := by
  rw [crcByteReflected, crcByte, if_pos rfl, ← reflect_top_byte hN, ← reflect_xor, reflectedRounds_reflect]

/-- Settles O49: the steps are each other's reflection, and reflectOut only decides whether the register or its
reflection is the result. -/
theorem reflectedFormAgrees : Obligations.ReflectedFormAgrees := fun _ P r _ b hN =>
  ⟨crcByteReflected_reflect hN P r b, rfl, by rw [reflect_reflect]; rfl⟩

/-! ### The hardware primitives -/

/-- One reflected round on the register's value: halve it, and XOR `P` if bit 0 was set (R192). -/
def reflectedRoundNat (P x : Nat) : Nat := if x % 2 = 1 then (x / 2) ^^^ P else x / 2

/-- A reflected round of the register is a round of its value. -/
theorem toNat_reflectedRound {N : Nat} (P r : BitVec N) :
    (reflectedRound P r).toNat = reflectedRoundNat P.toNat r.toNat := by
  have hbit : r.getLsbD 0 = decide (r.toNat % 2 = 1) := by rw [← BitVec.testBit_toNat, Nat.testBit_zero]
  have hshift : (r >>> 1).toNat = r.toNat / 2 := by rw [BitVec.toNat_ushiftRight, Nat.shiftRight_eq_div_pow, pow_one]
  simp only [reflectedRound, reflectedRoundNat, hbit, decide_eq_true_eq]
  split
  · rw [BitVec.toNat_xor, hshift]
  · exact hshift

/-- Reflected rounds of the register are rounds of its value. -/
theorem toNat_reflectedRounds {N : Nat} (P : BitVec N) (k : Nat) (r : BitVec N) :
    (reflectedRounds P k r).toNat = (reflectedRoundNat P.toNat)^[k] r.toNat := by
  induction k generalizing r with
  | zero => rfl
  | succ k ih => rw [reflectedRounds, ih, toNat_reflectedRound, Function.iterate_succ_apply]

/-- The complement of 32 bits is XOR with all ones (R197). -/
theorem toNat_hwFinal (r : BitVec 32) : (hwFinal r).toNat = r.toNat ^^^ 0xFFFFFFFF := by
  rw [hwFinal, ← BitVec.xor_allOnes, BitVec.toNat_xor]
  rfl

/-- Settles O45: the byte enters the bottom of the register exactly, and each of the 8 rounds is a round of the value;
the chunk is its eight bytes. -/
theorem hardwareStepArithmetic : Obligations.HardwareStepArithmetic := by
  refine ⟨fun P r b => ?_, fun P r w => rfl, toNat_hwFinal⟩
  rw [hwByte, crcByteReflected, toNat_reflectedRounds, BitVec.toNat_xor, BitVec.toNat_setWidth_of_le (by decide)]
  rfl

/-! ### The hardware engine and the generic engine -/

/-- The hardware step on a reflected register is the reflection of the generic step with reflectIn set (R198). -/
theorem hwByte_reflect (P r : BitVec 32) (b : Byte) : hwByte P (reflect r) b = reflect (crcByte P true r b) :=
  crcByteReflected_reflect (by decide) P r b

/-- The generic step of a 32-bit context. -/
theorem stepByte_crc_of_w32 {y : Context} (hwidth : y.width = .w32) (r : Word64) (b : Byte) :
    stepByte .crc y r b = zext64 (crcByte (y.poly.setWidth 32 : BitVec 32) y.refin (r.setWidth 32) b) := by
  cases y
  cases hwidth
  rfl

/-- The generic final of a 32-bit context. -/
theorem finalValue_crc_of_w32 {y : Context} (hwidth : y.width = .w32) (r : Word64) :
    finalValue .crc y r = zext64 (crcFinal y.refout (y.xorout.setWidth 32 : BitVec 32) (r.setWidth 32)) := by
  cases y
  cases hwidth
  rfl

/-- A 32-bit value read back from its register. -/
theorem setWidth_zext64 (v : BitVec 32) : (zext64 v).setWidth 32 = v := narrow_zext64 (W := .w32) v

/-- The registers of the two engines at one point of a message: each is the other's reflection. -/
def Mirrored (rx ry : Word64) : Prop := rx = zext64 (reflect (ry.setWidth 32 : BitVec 32))

/-- One byte keeps the two registers mirrored, if the two contexts hold one polynomial. -/
theorem Mirrored.after_byte {x y : Context} (hwidth : y.width = .w32) (hpoly : y.poly = x.poly)
    (hrefin : y.refin = true) {rx ry : Word64} (h : Mirrored rx ry) (b : Byte) :
    Mirrored (stepByte .crc32hw x rx b) (stepByte .crc y ry b) := by
  rw [Mirrored, stepByte_crc_of_w32 hwidth, hpoly, hrefin, setWidth_zext64, ← hwByte_reflect, h]
  exact congrArg (fun r => zext64 (hwByte _ r b)) (setWidth_zext64 _)

/-- So does a message. -/
theorem Mirrored.after_message {x y : Context} (hwidth : y.width = .w32) (hpoly : y.poly = x.poly)
    (hrefin : y.refin = true) {rx ry : Word64} (h : Mirrored rx ry) (m : List Byte) :
    Mirrored (m.foldl (stepByte .crc32hw x) rx) (m.foldl (stepByte .crc y) ry) := by
  induction m generalizing rx ry with
  | nil => exact h
  | cons b rest ih => exact ih (h.after_byte hwidth hpoly hrefin b)

/-- Settles O50: the registers stay mirrored, and the complement of the one is the generic final of the other. -/
theorem hardwareEngineEqualsGenericEngine : Obligations.HardwareEngineEqualsGenericEngine := by
  intro x y m _ _ hwidth hpoly hrefin hrefout hxorout hreg
  have hmirrored : Mirrored _ _ := Mirrored.after_message hwidth hpoly hrefin hreg m
  refine ⟨hmirrored, ?_⟩
  rw [finalValue_crc_of_w32 hwidth, hrefout, hxorout, finalValue, hmirrored, setWidth_zext64, hwFinal,
    ← BitVec.xor_allOnes]
  rfl

/-! ### The hardware engine's paths -/

/-- The software step is the hardware step (R199). -/
theorem swByte_eq_hwByte (P r : BitVec 32) (b : Byte) : swByte P r b = hwByte P r b := by
  rw [swByte, crcByteTable_eq_crcByte (by decide), ← hwByte_reflect, reflect_reflect]

/-- The lowest byte of a chunk's word is its first byte. -/
theorem operandByte_chunkWord_zero (b : Byte) (rest : List Byte) : operandByte (chunkWord (b :: rest)) 0 = b := by
  refine BitVec.eq_of_getLsbD_eq fun i hi => ?_
  have h64 : i < 64 := by omega
  simp [operandByte, chunkWord, hi, h64]

/-- The other bytes are those of the word of the rest, a place down. -/
theorem operandByte_chunkWord_succ (b : Byte) (rest : List Byte) {k : Nat} (hk : k + 1 < 8) :
    operandByte (chunkWord (b :: rest)) (k + 1) = operandByte (chunkWord rest) k := by
  refine BitVec.eq_of_getLsbD_eq fun i hi => ?_
  have hlt : 8 * (k + 1) + i < 64 := by omega
  have hge : ¬ 8 * (k + 1) + i < 8 := by omega
  have hplace : 8 * (k + 1) + i - 8 = 8 * k + i := by omega
  have hout : b.getLsbD (8 * (k + 1) + i) = false := BitVec.getLsbD_of_ge b _ (by omega)
  rw [operandByte, operandByte, chunkWord, BitVec.getLsbD_extractLsb', BitVec.getLsbD_extractLsb', BitVec.getLsbD_or,
    BitVec.getLsbD_shiftLeft, BitVec.getLsbD_setWidth, hplace, hout, decide_eq_true hlt, decide_eq_false hge]
  simp

/-- The word of at most eight bytes holds them in order (R193). -/
theorem operandBytes_chunkWord {q : List Byte} (hq : q.length ≤ 8) : operandBytes (chunkWord q) q.length = q := by
  induction q with
  | nil => rfl
  | cons b rest ih =>
    have hrest : (List.range rest.length).map (fun k => operandByte (chunkWord (b :: rest)) (k + 1)) = rest := by
      rw [List.length_cons] at hq
      refine (List.map_congr_left fun k hk => ?_).trans (ih (by omega))
      have hlt : k < rest.length := List.mem_range.mp hk
      exact operandByte_chunkWord_succ b rest (by omega)
    rw [operandBytes, List.length_cons, List.range_succ_eq_map, List.map_cons, List.map_map,
      operandByte_chunkWord_zero]
    exact congrArg (b :: ·) hrest

/-- The chunk primitive on eight bytes of a message is the eight single steps (R193). -/
theorem hwChunk_chunkWord (P r : BitVec 32) {q : List Byte} (hq : q.length = 8) :
    hwChunk P r (chunkWord q) = q.foldl (hwByte P) r := by
  rw [hwChunk, ← hq, operandBytes_chunkWord hq.le]

/-- Any number of leading chunks leaves the register of the single steps (R194). -/
theorem hwGrouped_eq_foldl (P : BitVec 32) {k : Nat} (r : BitVec 32) {m : List Byte} (hk : 8 * k ≤ m.length) :
    hwGrouped P k r m = m.foldl (hwByte P) r := by
  induction k generalizing r m with
  | zero => rfl
  | succ k ih =>
    have htake : (m.take 8).length = 8 := by rw [List.length_take]; omega
    have hdrop : 8 * k ≤ (m.drop 8).length := by rw [List.length_drop]; omega
    rw [hwGrouped, ih _ hdrop, hwChunk_chunkWord P r htake, ← List.foldl_append, List.take_append_drop]

/-- Settles O51: a chunk is its eight single steps, and the software step is the hardware step. -/
theorem hardwarePathsAgree : Obligations.HardwarePathsAgree := by
  refine fun P r m => ⟨fun k hk => hwGrouped_eq_foldl P r hk, ?_⟩
  have hstep : swByte P = hwByte P := funext₂ (swByte_eq_hwByte P)
  rw [hstep]

end Sys2Proof.Machine
end

section
/-! The inverse's properties (spec/40_modinv.md R153) and the FNV inverse step (spec/43_fnv.md R219, R220). -/

namespace Sys2Proof.Machine

open Sys2Proof.Certificates

/-! ### Properties of the inverse -/

/-- What multiplies an odd W-bit value to 1 is its inverse. -/
theorem eq_inverseAt {W : Width} {v : Word64} (hfits : v.toNat < 2 ^ W.bits) (hodd : v.toNat % 2 = 1) {y : Nat}
    (hy : y < 2 ^ W.bits) (hyv : (y * v.toNat) % 2 ^ W.bits = 1) : (inverseAt W v).toNat = y :=
  (eq_of_mul_mod_eq_one hodd (toNat_inverseAt_lt W v) hy (inverseAt_mul_mod hfits hodd) hyv).symm

/-- The inverse is odd (R153). -/
theorem inverseAt_odd {W : Width} {v : Word64} (hfits : v.toNat < 2 ^ W.bits) (hodd : v.toNat % 2 = 1) :
    (inverseAt W v).toNat % 2 = 1 := by
  by_contra heven
  refine mul_mod_ne_one_of_even (Width.bits_pos W) (v := (inverseAt W v).toNat) (by omega) v.toNat ?_
  rw [Nat.mul_comm]
  exact inverseAt_mul_mod hfits hodd

/-- The inverse of the inverse is the value (R153). -/
theorem inverseAt_inverseAt {W : Width} {v : Word64} (hfits : v.toNat < 2 ^ W.bits) (hodd : v.toNat % 2 = 1) :
    inverseAt W (inverseAt W v) = v := by
  apply BitVec.eq_of_toNat_eq
  refine eq_inverseAt (toNat_inverseAt_lt W v) (inverseAt_odd hfits hodd) hfits ?_
  rw [Nat.mul_comm]
  exact inverseAt_mul_mod hfits hodd

/-- 1 is its own inverse (R153). -/
theorem inverseAt_one (W : Width) : inverseAt W 1 = 1 := by
  apply BitVec.eq_of_toNat_eq
  have hlt : 1 < 2 ^ W.bits := Nat.one_lt_two_pow (Width.bits_pos W).ne'
  exact eq_inverseAt (v := 1) hlt rfl hlt (Nat.mod_eq_of_lt hlt)

/-- So is `2^W - 1` (R153). -/
theorem inverseAt_allOnes (W : Width) :
    (inverseAt W (BitVec.ofNat 64 (2 ^ W.bits - 1))).toNat = 2 ^ W.bits - 1 := by
  have hself : (BitVec.ofNat 64 (2 ^ W.bits - 1)).toNat = 2 ^ W.bits - 1 := by cases W <;> rfl
  have hlt : 2 ^ W.bits - 1 < 2 ^ W.bits := Nat.sub_lt (Nat.two_pow_pos _) Nat.one_pos
  have hodd : (2 ^ W.bits - 1) % 2 = 1 := by cases W <;> rfl
  have hsquare : (2 ^ W.bits - 1) * (2 ^ W.bits - 1) % 2 ^ W.bits = 1 := by cases W <;> rfl
  refine eq_inverseAt ?_ ?_ hlt ?_ <;> rw [hself]
  · exact hlt
  · exact hodd
  · exact hsquare

/-- The inverse at a smaller width is the inverse reduced to it (R153). -/
theorem inverseAt_mod {W W' : Width} {v : Word64} (hfits : v.toNat < 2 ^ W.bits) (hodd : v.toNat % 2 = 1)
    (hW : W'.bits < W.bits) : (inverseAt W' (BitVec.ofNat 64 (v.toNat % 2 ^ W'.bits))).toNat =
      (inverseAt W v).toNat % 2 ^ W'.bits := by
  have hpos := Nat.two_pow_pos W'.bits
  have hreduced : (BitVec.ofNat 64 (v.toNat % 2 ^ W'.bits)).toNat = v.toNat % 2 ^ W'.bits :=
    Nat.mod_eq_of_lt ((Nat.mod_le _ _).trans_lt v.isLt)
  refine eq_inverseAt ?_ ?_ (Nat.mod_lt _ hpos) ?_ <;> rw [hreduced]
  · exact Nat.mod_lt _ hpos
  · rw [Nat.mod_mod_of_dvd _ (dvd_pow_self 2 (Width.bits_pos W').ne'), hodd]
  · calc (inverseAt W v).toNat % 2 ^ W'.bits * (v.toNat % 2 ^ W'.bits) % 2 ^ W'.bits
        = ((inverseAt W v).toNat * v.toNat) % 2 ^ W.bits % 2 ^ W'.bits := by
          rw [← Nat.mul_mod, Nat.mod_mod_of_dvd _ (Nat.pow_dvd_pow 2 hW.le)]
      _ = 1 := by
          rw [inverseAt_mul_mod hfits hodd]
          exact Nat.mod_eq_of_lt (Nat.one_lt_two_pow (Width.bits_pos W').ne')

/-- Settles O42: each property by the uniqueness of the inverse. -/
theorem inverseProperties : Obligations.InverseProperties := fun W _ hfits hodd =>
  ⟨inverseAt_odd hfits hodd, inverseAt_inverseAt hfits hodd, inverseAt_one W, inverseAt_allOnes W,
    fun _ hW => (inverseAt_mod hfits hodd hW).symm⟩

/-! ### The FNV inverse step -/

/-- The inverse step undoes the forward step (R219). -/
theorem fnvUnstep_fnvByte {N : Nat} (hN : N ≤ 64) {p : BitVec N} (hp : p.toNat % 2 = 1) (r : BitVec N) (b : Byte) :
    fnvUnstep (inverse p) (fnvByte p r b) b = r := by
  rw [fnvUnstep, fnvByte, mul_assoc, mul_inverse_of_odd hN (odd_of_toNat_mod_two hp), mul_one, BitVec.xor_assoc,
    BitVec.xor_self, BitVec.xor_zero]

/-- The forward step undoes the inverse step (R219). -/
theorem fnvByte_fnvUnstep {N : Nat} (hN : N ≤ 64) {p : BitVec N} (hp : p.toNat % 2 = 1) (r : BitVec N) (b : Byte) :
    fnvByte p (fnvUnstep (inverse p) r b) b = r := by
  rw [fnvUnstep, fnvByte, BitVec.xor_assoc, BitVec.xor_self, BitVec.xor_zero, mul_assoc, mul_comm (inverse p),
    mul_inverse_of_odd hN (odd_of_toNat_mod_two hp), mul_one]

/-- Settles O52: the product of the prime and its inverse is 1, and XOR undoes itself. -/
theorem fnvInverseRoundTrip : Obligations.FnvInverseRoundTrip := fun W _ r b hp =>
  ⟨fnvUnstep_fnvByte (Width.bits_le W) hp r b, fnvByte_fnvUnstep (Width.bits_le W) hp r b⟩

/-! ### Walking a message back -/

/-- An FNVINV context that undoes the steps of the FNV context `y`: the same width and prime, and the prime's inverse
(R217, R220). -/
structure Undoes (x y : Context) : Prop where
  kind : x.kind = .fnvinv
  width : y.width = x.width
  prime : y.prime = x.prime
  odd : x.prime.toNat % 2 = 1
  pinv : x.pinv = inverseAt x.width x.prime

/-- UNSTEP of a byte gives the register before the byte's FNV step. -/
theorem Undoes.unstepReg_eq {x y : Context} (h : Undoes x y) {r : Word64} (hr : fits r y.width = true) {b : Byte}
    (hreg : x.reg = stepByte .fnv y r b) : unstepReg x (b.setWidth 64) = r := by
  have hbyte : operandByte (b.setWidth 64) 0 = b := by
    apply BitVec.eq_of_toNat_eq
    rw [toNat_operandByte_zero, BitVec.toNat_setWidth_of_le (by decide)]
    exact Nat.mod_eq_of_lt b.isLt
  have hodd : (narrow x.width x.prime).toNat % 2 = 1 := by
    rw [narrow, BitVec.toNat_setWidth, Nat.mod_mod_of_dvd _ (dvd_pow_self 2 (Width.bits_pos _).ne'), h.odd]
  have hfits : r.toNat < 2 ^ x.width.bits := (fits_eq_true_iff _ _).mp (h.width ▸ hr)
  rw [unstepReg, hbyte, hreg, h.pinv, inverseAt, stepByte, h.width, h.prime, narrow_zext64,
    narrow_zext64, fnvUnstep_fnvByte (Width.bits_le _) hodd, zext64_narrow hfits]

/-- One more UNSTEP in a run of them, the byte loaded into A0 first. -/
def unstepNext (c : Nat) (o : Host.Outcome State Fault Refusal) (b : Byte) : Host.Outcome State Fault Refusal :=
  match o with
  | .next u => exec (.unstep c) { u with a0 := b.setWidth 64 }
  | .fault r => .fault r
  | .refused r => .refused r

/-- A register in the W bits of an FNV context stays in them over a message. -/
theorem fits_foldl_fnv {y : Context} (hy : y.kind = .fnv) (hreg : fits y.reg y.width = true) (m : List Byte) :
    fits (m.foldl (stepByte .fnv y) y.reg) y.width = true :=
  fits_foldMessage (k := .fnv) (by rw [hy]; rfl) (by simp [hy]) hreg m

/-- Writing the context that is there changes nothing. -/
theorem set_self_of_getElem? {cs : List Context} {c : Nat} {x : Context} (hx : cs[c]? = some x) : cs.set c x = cs := by
  obtain ⟨hlt, rfl⟩ := List.getElem?_eq_some_iff.mp hx
  exact List.set_getElem_self hlt

/-- Stepping back over a message ends with the register before it, and changes STATUS, A0 and REG[c] only. -/
theorem unstep_message {s : State} {c : Nat} {x y : Context} {m : List Byte} (hx : s.contexts[c]? = some x)
    (h : Undoes x y) (hy : y.kind = .fnv) (hyreg : fits y.reg y.width = true)
    (hreg : x.reg = m.foldl (stepByte .fnv y) y.reg) :
    ∃ t, m.reverse.foldl (unstepNext c) (.next s) = .next t ∧
      t.contexts = s.contexts.set c { x with reg := y.reg } ∧
      t.a1 = s.a1 ∧ t.a2 = s.a2 ∧ t.res = s.res ∧ t.dmem = s.dmem ∧ t.params = s.params := by
  induction m using List.reverseRecOn generalizing s x with
  | nil =>
    have hsame : x.reg = y.reg := hreg
    exact ⟨s, rfl, by rw [← hsame, set_self_of_getElem? hx], rfl, rfl, rfl, rfl, rfl⟩
  | append_singleton m b ih =>
    rw [List.foldl_append, List.foldl_cons, List.foldl_nil] at hreg
    have hprev := h.unstepReg_eq (fits_foldl_fnv hy hyreg m) hreg
    set x' : Context := { x with reg := m.foldl (stepByte .fnv y) y.reg }
    set s' : State := doneState (State.setReg { s with a0 := b.setWidth 64 } c x (m.foldl (stepByte .fnv y) y.reg))
    have hfirst : unstepNext c (.next s) b = .next s' := by
      rw [unstepNext, exec_unstep_of_fnvinv (s := { s with a0 := b.setWidth 64 }) hx h.kind, hprev]
    have hx' : s'.contexts[c]? = some x' := List.getElem?_set_self (State.lt_of_get hx)
    obtain ⟨t, hrun, hcontexts, hframe⟩ := ih hx' ⟨h.kind, h.width, h.prime, h.odd, h.pinv⟩ rfl
    refine ⟨t, ?_, ?_, hframe⟩
    · rw [List.reverse_append, List.reverse_singleton, List.singleton_append, List.foldl_cons, hfirst, hrun]
    · rw [hcontexts]
      exact List.set_set _

/-- Settles O53: the FNVINV context undoes the FNV context's steps, so its REG walks the message back. -/
theorem unstepWalksAMessageBack : Obligations.UnstepWalksAMessageBack := by
  intro s c x y m hx hkind hykind hwidth hprime hfits hodd hpinv hreg
  exact unstep_message hx ⟨hkind, hwidth, hprime, hodd, hpinv⟩ hykind ((fits_eq_true_iff _ _).mpr hfits) hreg

end Sys2Proof.Machine
end

section
/-! Message delivery (spec/20_memory.md R85; spec/45_context_ops.md R271): each delivery folds its own bytes into REG,
so how a message is split does not matter. -/

namespace Sys2Proof.Machine

open Sys2Proof.Certificates

/-- Settles O40: the interval check accepts what R85 admits. -/
theorem spanCheckIsSpanOk : Obligations.SpanCheckIsSpanOk := spanOk_iff_spanAdmitted

/-- The byte step reads the configuration of its context, not REG (R260). -/
theorem stepByte_with_reg (k : StreamKind) (x : Context) (r : Word64) :
    stepByte k { x with reg := r } = stepByte k x := by
  cases k <;> rfl

/-- The context after a message, of which only REG changes (R271). -/
def Context.afterMessage (k : StreamKind) (x : Context) (m : List Byte) : Context :=
  { x with reg := m.foldl (stepByte k x) x.reg }

/-- A message in two parts is the message. -/
theorem Context.afterMessage_append (k : StreamKind) (x : Context) (m m' : List Byte) :
    x.afterMessage k (m ++ m') = (x.afterMessage k m).afterMessage k m' := by
  simp only [afterMessage, stepByte_with_reg, List.foldl_append]

/-- The bytes of a delivery depend on DMEM only. -/
theorem delivery_bytes_congr {s t : State} (h : t.dmem = s.dmem) (d : Delivery) : d.bytes t = d.bytes s := by
  cases d with
  | span a n => simp only [Delivery.bytes, State.readDmem_congr h]
  | imm v n => rfl

/-- From `s` to `t` context `c` was given `x`, and nothing changed but that, A0, A1 and STATUS. -/
structure Delivered (c : Nat) (x : Context) (s t : State) : Prop where
  contexts : t.contexts = s.contexts.set c x
  res : t.res = s.res
  a2 : t.a2 = s.a2
  params : t.params = s.params
  dmem : t.dmem = s.dmem

section
variable {s : State} {c : Nat} {x : Context} {k : StreamKind} (hx : s.contexts[c]? = some x)
  (hk : Kind.stream? x.kind = some k)
include hx hk

/-- UPDATE of an admitted span feeds the span to the context (R264). -/
theorem exec_update_of_admitted (hspan : SpanAdmitted s.params s.a0.toNat s.a1.toNat) :
    exec (.update c) s =
      .next (doneState (s.setContext c (x.afterMessage k (s.spanBytes s.a0.toNat s.a1.toNat)))) := by
  rw [exec_update, onContext_of_stream hx hk, if_neg (not_not_intro ((spanOk_iff_spanAdmitted _ _ _).mpr hspan))]
  exact conclude_ok_eq_doneState _ _

/-- UPDATEI feeds the low bytes of A0 to the context (R265). -/
theorem exec_updatei_of_stream (n : Nat) :
    exec (.updatei c n) s = .next (doneState (s.setContext c (x.afterMessage k (operandBytes s.a0 (n + 1))))) := by
  rw [exec_updatei, onContext_of_stream hx hk]
  exact conclude_ok_eq_doneState _ _

/-- One delivery folds its bytes into REG. -/
theorem delivery_run {d : Delivery} (hd : d.Admitted s.params) :
    ∃ t, d.run c s = .next t ∧ Delivered c (x.afterMessage k (d.bytes s)) s t := by
  cases d with
  | span a n =>
    exact ⟨_, exec_update_of_admitted (s := { s with a0 := a, a1 := n }) hx hk hd, rfl, rfl, rfl, rfl, rfl⟩
  | imm v n => exact ⟨_, exec_updatei_of_stream (s := { s with a0 := v }) hx hk n, rfl, rfl, rfl, rfl, rfl⟩

end

/-- Deliveries one after another fold all their bytes into REG, in order. -/
theorem deliver_run {s : State} {c : Nat} {x : Context} {k : StreamKind} {ds : List Delivery}
    (hx : s.contexts[c]? = some x) (hk : Kind.stream? x.kind = some k) (hds : ∀ d ∈ ds, d.Admitted s.params) :
    ∃ t, deliver c ds s = .next t ∧ Delivered c (x.afterMessage k (ds.flatMap (Delivery.bytes s))) s t := by
  induction ds generalizing s x with
  | nil => exact ⟨s, rfl, (set_self_of_getElem? hx).symm, rfl, rfl, rfl, rfl⟩
  | cons d ds ih =>
    obtain ⟨hd, hds⟩ := List.forall_mem_cons.mp hds
    obtain ⟨s', hfirst, hs'⟩ := delivery_run hx hk hd
    have hx' : s'.contexts[c]? = some (x.afterMessage k (d.bytes s)) :=
      hs'.contexts ▸ List.getElem?_set_self (State.lt_of_get hx)
    have hbytes : Delivery.bytes s' = Delivery.bytes s := funext (delivery_bytes_congr hs'.dmem)
    obtain ⟨t, hrest, ht⟩ := ih hx' hk (hs'.params ▸ hds)
    refine ⟨t, by rw [deliver, hfirst]; exact hrest, ?_, ht.res.trans hs'.res, ht.a2.trans hs'.a2,
      ht.params.trans hs'.params, ht.dmem.trans hs'.dmem⟩
    rw [ht.contexts, hs'.contexts, List.set_set, hbytes, List.flatMap_cons, Context.afterMessage_append]

/-- Settles O54: the deliveries fold their bytes into REG one after another, which is the fold over all of them. -/
theorem chunkInvariance : Obligations.ChunkInvariance := by
  intro s c x k ds hx hk hds
  obtain ⟨t, hrun, ht⟩ := deliver_run hx hk hds
  exact ⟨t, hrun, ht.contexts, ht.res, ht.a2, ht.params, State.readDmem_congr ht.dmem⟩

end Sys2Proof.Machine
end

section
/-! The assembler's lines (spec/30_encoding.md R125, R127): the operands each pseudo-instruction loads, and what the
host accesses of each line do. -/

namespace Sys2Proof.Machine

open Sys2Proof.Certificates

/-! ### The pseudo-instructions -/

/-- Three operands and flags are not flags alone. -/
theorem parseReflect_of_operands (x y z : List Char) (flags : List (List Char)) :
    parseReflect (x :: y :: z :: flags) = none := by
  simp [parseReflect]

/-- A number is not the word `default`. -/
theorem ne_default_of_parseWord {d : List Char} {v : Word64} (h : parseWord 64 d = some v) :
    d ≠ "default".toList := by
  rintro rfl
  have hnone : parseWord 64 "default".toList = none := by decide
  exact absurd (hnone.symm.trans h) nofun

/-- A 64-bit operand is loaded as it is. -/
theorem zext64_self (v : Word64) : zext64 v = v := BitVec.setWidth_eq v

/-- Each mnemonic finds its parser, which finds the operands it loads. -/
theorem pseudoInstructionsExpand : PseudoInstructionsExpand := by
  intro ctx wid x y z byte num flags c wc count u v w b ri ro hctx hwid hx hy hz hbyte hnum hpos hle hflags
  have hdefault := ne_default_of_parseWord hx
  refine ⟨?update, ?updatei, ?unstep, ?loadreg, ?modinv, ?cfgCrc, ?cfgFnv, ?cfgFnvinv, ?cfgDjb2, ?cfgDjb2alt, ?isoHdlc⟩
  case update => simp only [parseStatement, parseUpdate, hctx, hx, hy]
  case updatei => simp only [parseStatement, parseUpdatei, hctx, hx, hnum, hpos, hle, and_self, if_true]
  case unstep =>
    simp only [parseStatement, parseCtxImm, hctx, hbyte]
    rfl
  case loadreg => simp only [parseStatement, parseCtxImm, hctx, hx, zext64_self]
  case modinv => simp only [parseStatement, parseModinv, hwid, hx]
  case cfgCrc => simp only [parseStatement, parseCfgCrc, hctx, hwid, hx, hy, hz, hflags, parseReflect_of_operands]
  case cfgFnv | cfgFnvinv => simp only [parseStatement, parseCfgFnv, hctx, hwid, hx, hy]
  case cfgDjb2 | cfgDjb2alt =>
    simp only [parseStatement, parseCfgDjb2, hctx, hwid, hx, if_neg hdefault, Option.map]
  case isoHdlc => simp only [parseStatement, parseIsoHdlc, hctx, Option.map]

/-! ### Commands and operand loads -/

/-- A command's one access runs the command. -/
theorem step_command {s : State} {i : Instr} {rest : List HostEvent} (hi : i.WellFormed)
    (hp : s.pending = cmdWrite s.params (encode i) :: rest) : step s = exec i { s with pending := rest } :=
  (step_cmdWrite hp).trans (runCommand_of_decode (decodeOfEncode i hi) _)

/-- The state with an operand register loaded. -/
def State.load (s : State) (k : Nat) (imm : Word64) : State :=
  { s with
    a0 := if k = 0 then imm else s.a0, a1 := if k = 1 then imm else s.a1, a2 := if k = 2 then imm else s.a2 }

/-- A load's one access loads its register. -/
theorem step_li {s : State} {k : Nat} {imm : Word64} {rest : List HostEvent} (hk : k ≤ 2)
    (hp : s.pending = liEvent s.params k imm :: rest) :
    step s = .next (State.load { s with pending := rest } k imm) := by
  obtain ⟨h0, h1, h2, -⟩ := hostWritesOfOperandRegisters s rest imm
  obtain rfl | rfl | rfl : k = 0 ∨ k = 1 ∨ k = 2 := by omega
  · exact h0 hp
  · exact h1 hp
  · exact h2 hp

/-- Operand loads in order, then the command: the last load of each register stays. -/
theorem run_withOperands {i : Instr} (hi : i.WellFormed) {loads : List (Nat × Word64)} (hloads : ∀ l ∈ loads, l.1 ≤ 2)
    {s : State} {rest : List HostEvent}
    (hp : s.pending = AsmLine.events s.params (.withOperands loads i) ++ rest) :
    Sys2Proof.core.run (loads.length + 1) s = exec i { s with
      pending := rest, a0 := lastLoad 0 loads s.a0, a1 := lastLoad 1 loads s.a1, a2 := lastLoad 2 loads s.a2 } := by
  induction loads generalizing s with
  | nil => exact (run_one s).trans (step_command hi hp)
  | cons l loads ih =>
    obtain ⟨hl, hloads⟩ := List.forall_mem_cons.mp hloads
    have hfirst := step_li hl (rest := AsmLine.events s.params (.withOperands loads i) ++ rest) hp
    exact (run_succ_of_next hfirst _).trans (ih hloads rfl)

/-! ### Reads -/

/-- What `rd` of each register logs. -/
theorem step_rd {s : State} {r : WindowReg} {v : Word64} {rest : List HostEvent}
    (hv : (r, v) ∈ [(WindowReg.res, s.res), (.status, s.status.setWidth 64), (.cap, s.cap.setWidth 64), (.a0, s.a0),
      (.a1, s.a1), (.a2, s.a2)])
    (hp : s.pending = rdEvent s.params r :: rest) :
    step s = .next { s with pending := rest, readLog := v :: s.readLog } := by
  have read (off : Nat) := hostReadsReturnTheRegisters s rest off
  simp only [List.mem_cons, Prod.mk.injEq, List.not_mem_nil, or_false] at hv
  obtain ⟨rfl, rfl⟩ | ⟨rfl, rfl⟩ | ⟨rfl, rfl⟩ | ⟨rfl, rfl⟩ | ⟨rfl, rfl⟩ | ⟨rfl, rfl⟩ := hv
  · exact (read 0x20).2 _ hp (.inl (by simp))
  · exact (read 0x28).1 _ hp (.inl (by simp))
  · exact (read 0x30).1 _ hp (.inl (by simp))
  · exact (read 0x08).2 _ hp (.inl (by simp))
  · exact (read 0x10).2 _ hp (.inl (by simp))
  · exact (read 0x18).2 _ hp (.inl (by simp))

/-! ### DMEM -/

/-- A run of stores of DMEM bytes changes DMEM only: each byte of the run is in its place, every other byte stays. -/
theorem run_dmem {s : State} {addr : Nat} {bytes : List Byte} {rest : List HostEvent}
    (hvalid : ∀ j, j < bytes.length → dmemValid s.params (addr + j) = true)
    (hp : s.pending = dmemEvents addr bytes ++ rest) :
    ∃ t, Sys2Proof.core.run bytes.length s = .next t ∧ t = { s with pending := rest, dmem := t.dmem } ∧
      (∀ (j : Nat) (b : Byte), bytes[j]? = some b → t.readDmem (addr + j) = b) ∧
      ∀ a, a < addr ∨ addr + bytes.length ≤ a → t.readDmem a = s.readDmem a := by
  induction bytes generalizing s addr with
  | nil => exact ⟨s, rfl, (with_pending_self hp).symm, nofun, fun _ _ => rfl⟩
  | cons b bytes ih =>
    have hfirst := (dmemStoresAndIdling s (dmemEvents (addr + 1) bytes ++ rest) addr b).1 hp (hvalid 0 (by simp))
    obtain ⟨m, hstep, hstored, hkept⟩ := hfirst
    have hvalid' (j : Nat) (hj : j < bytes.length) : dmemValid s.params (addr + 1 + j) = true := by
      rw [Nat.add_assoc, Nat.add_comm 1]
      exact hvalid (j + 1) (Nat.succ_lt_succ hj)
    obtain ⟨t, hrun, hframe, hbytes, hothers⟩ :=
      ih (s := { s with pending := dmemEvents (addr + 1) bytes ++ rest, dmem := m }) hvalid' rfl
    refine ⟨t, (run_succ_of_next hstep _).trans hrun, hframe, fun j b' hj => ?_, fun a ha => ?_⟩
    · cases j with
      | zero =>
        cases hj
        exact (hothers addr (.inl (Nat.lt_succ_self addr))).trans hstored
      | succ j =>
        rw [Nat.add_comm j, ← Nat.add_assoc]
        exact hbytes j b' hj
    · rw [List.length_cons] at ha
      exact (hothers a (by omega)).trans (hkept a (by omega))

/-- Settles O60: the pseudo-instructions by their parsers, and each line's accesses by the steps they take. -/
theorem listingLinesRunTheirCommands : Obligations.ListingLinesRunTheirCommands :=
  ⟨pseudoInstructionsExpand, fun _ _ =>
    ⟨id, fun _ hi => ⟨step_command hi, fun _ hloads => run_withOperands hi hloads⟩, fun _ _ => step_li,
      fun _ => step_cmdWrite, fun _ _ => step_rd, fun _ _ => run_dmem⟩⟩

end Sys2Proof.Machine
end
